-- ==== Sys2Proof/Word.lean ====
section
/-! DEFINITION. The words of the block that have one width: a PinState, an index and an entry of the TransitionTable.
Where a width is a parameter (ACC_W, TIME_W) the value is an integer or a natural number, and every operation that
wraps names the width (log entries 1 and 9). -/
namespace Sys2Proof

/-- A PinState: bit 1 is line A (CLK), bit 0 line B (DT) (R35, R54). -/
abbrev PinState := BitVec 2

/-- An address of the TransitionTable, `prev` in the high two bits (R32). -/
abbrev TableIndex := BitVec 4

/-- A stored entry of the TransitionTable, two's complement (R33). -/
abbrev TableEntry := BitVec 2

end Sys2Proof
end

