-- ==== Sys2Proof/Config.lean ====
section
/-! DEFINITION. What an implementation fixes (the parameters of 00_scope.md section 4) and the free values of an rst
cycle. -/
namespace Sys2Proof

/-- The three configuration constants of the block, one field for each static pin bundle of R46
(`cfg_spd`, `cfg_invert`, `cfg_debounce`). -/
structure Config where
  /-- STEPS_PER_DETENT (R8, R21). -/
  stepsPerDetent : Nat
  /-- INVERT_DIRECTION (R9, R22). -/
  invertDirection : Bool
  /-- PRESS_DEBOUNCE_MS (R10, R23). -/
  pressDebounceMs : Nat
  deriving DecidableEq, Repr

/-- The widths an instance of the block is built with. -/
structure Widths where
  /-- ACC_W, the width of the step accumulator (R12). -/
  accW : Nat
  /-- TIME_W, the width of a timestamp (R13). -/
  timeW : Nat
  deriving DecidableEq, Repr

/-- The default of each configuration constant (R8, R9, R10). -/
def defaultConfig : Config :=
  { stepsPerDetent := 4, invertDirection := false, pressDebounceMs := 30 }

/-- The default widths (R12, R13); the opcode table is printed for them. -/
def defaultWidths : Widths := { accW := 8, timeW := 32 }

/-- SAMPLE_INTERVAL_MS, a parameter of the environment's polling loop and of no rule of the block (R11). -/
def defaultSampleIntervalMs : Nat := 1

/-- FREE VALUE (R123, U1): what `prev` holds after an rst cycle. It has no body, so nothing can be proved of it
(log entry 3). -/
opaque freePrev : Nat → PinState

/-- FREE VALUE (R123, U1): what `acc` holds after an rst cycle, before it is cut to ACC_W bits (log entry 3). -/
opaque freeAcc : Nat → Int

/-- FREE VALUE (R123, U3): what `last` holds after an rst cycle, before it is cut to TIME_W bits (log entry 3). -/
opaque freeLast : Nat → Nat

end Sys2Proof
end

