-- ==== Sys2Proof/Syntax.lean ====
section
/-! DEFINITION. The operations of the block, one constructor for each row of spec/opcode_table.json, and the port each
is presented on. -/
namespace Sys2Proof

/-- The two command ports (R46). -/
inductive Port where
  /-- The quadrature command port, 4 bits wide (R48). -/
  | q
  /-- The press command port, TIME_W + 1 bits wide (R50). -/
  | p
  deriving DecidableEq, Repr

/-- The five operations (R49, R51). The ignored bits of an idle word are no operands (R53). -/
inductive Instr where
  /-- QIDLE (R75). -/
  | qidle
  /-- STEP a b: `a` the sample of line A (CLK), `b` of line B (DT) (R60). -/
  | step (a b : Bool)
  /-- INIT a b: the initial samples (R58). -/
  | init (a b : Bool)
  /-- PIDLE (R87). -/
  | pidle
  /-- PRESS t: `t` the millisecond clock's value at the raw press edge (R78). -/
  | press (t : Nat)
  deriving DecidableEq, Repr

/-- The port an operation is presented on (the opcode table's "format"). -/
def portOf : Instr → Port
  | .qidle => .q
  | .step _ _ => .q
  | .init _ _ => .q
  | .pidle => .p
  | .press _ => .p

end Sys2Proof
end

