-- ==== Sys2Proof/WellFormed.lean ====
section
/-! DEFINITION. Which operations a block with given widths can be given: the one check is that a timestamp fits
TIME_W bits. -/
namespace Sys2Proof

/-- An operation whose operands fit their fields. The operand of PRESS is a word of TIME_W bits (R50, R78); every other
operand is one bit and fits by its type. -/
def wellFormed (timeW : Nat) : Instr → Bool
  | .qidle => true
  | .step _ _ => true
  | .init _ _ => true
  | .pidle => true
  | .press t => decide (t < 2 ^ timeW)

end Sys2Proof
end

