-- ==== Sys2Proof/Decode.lean ====
section
/-! DEFINITION. The decoder of the port words (R48 to R53) and, after it, the encoder. The block has no bytes (R35), so
the words are those of the ports. -/
namespace Sys2Proof

/-- Why a number is no word of a port. Every word of a port decodes (R52). -/
inductive DecodeError where
  /-- The number needs more than the four pins of the Q port (R48). -/
  | qWordTooWide
  /-- The number needs more than the TIME_W + 1 pins of the P port (R50). -/
  | pWordTooWide
  deriving DecidableEq, Repr

/-- The width of a port's word (R48, R50). -/
def portWidth (timeW : Nat) : Port → Nat
  | .q => 4
  | .p => timeW + 1

/-- A Q word: the valid bit `Q[3]`, the operation bit `Q[2]`, the samples `Q[1]` and `Q[0]` (R48, R49). The bits below
a clear valid bit are ignored (R53). -/
def decodeQ (w : BitVec 4) : Instr :=
  if w.getLsbD 3 then
    if w.getLsbD 2 then .init (w.getLsbD 1) (w.getLsbD 0)
    else .step (w.getLsbD 1) (w.getLsbD 0)
  else .qidle

/-- A P word of `timeW + 1` bits: the valid bit at the top, the timestamp below it (R50, R51). -/
def decodeP (timeW w : Nat) : Instr :=
  if w / 2 ^ timeW % 2 = 1 then .press (w % 2 ^ timeW) else .pidle

/-- The operation that a word presented on a port selects (R52). -/
def decode (timeW : Nat) (port : Port) (w : Nat) : Except DecodeError Instr :=
  match port with
  | .q => if w < 16 then .ok (decodeQ (BitVec.ofNat 4 w)) else .error .qWordTooWide
  | .p => if w < 2 ^ (timeW + 1) then .ok (decodeP timeW w) else .error .pWordTooWide

/-- Bit `false` is 0, bit `true` is 1 (R35). -/
def bit (b : Bool) : Nat := cond b 1 0

/-- The word of an operation, the canonical one for an idle operation (R49, R51). -/
def encode (timeW : Nat) : Instr → Nat
  | .qidle => 0x0
  | .step a b => 0x8 + (2 * bit a + bit b)
  | .init a b => 0xC + (2 * bit a + bit b)
  | .pidle => 0
  | .press t => 2 ^ timeW + t

/-- One row of the opcode table as R49 and R51 print it: a word selects the row when `w AND mask = match`. -/
structure TableRow where
  /-- The row's mnemonic. -/
  mnemonic : String
  /-- The row's port. -/
  port : Port
  /-- The mask. -/
  mask : Nat
  /-- The match. -/
  pattern : Nat
  deriving DecidableEq, Repr

/-- The opcode table for a timestamp of `timeW` bits (R49, R51). -/
def opcodeTable (timeW : Nat) : List TableRow :=
  [ { mnemonic := "QIDLE", port := .q, mask := 0x8, pattern := 0x0 },
    { mnemonic := "STEP", port := .q, mask := 0xC, pattern := 0x8 },
    { mnemonic := "INIT", port := .q, mask := 0xC, pattern := 0xC },
    { mnemonic := "PIDLE", port := .p, mask := 2 ^ timeW, pattern := 0 },
    { mnemonic := "PRESS", port := .p, mask := 2 ^ timeW, pattern := 2 ^ timeW } ]

/-- The mnemonic of an operation. -/
def mnemonicOf : Instr → String
  | .qidle => "QIDLE"
  | .step _ _ => "STEP"
  | .init _ _ => "INIT"
  | .pidle => "PIDLE"
  | .press _ => "PRESS"

/-- The port whose rows have `nbits` bits once rounded up to whole bytes: the Q word fits one byte, the P word of the
default widths needs five. -/
def tablePort (nbits : Nat) : Port := if nbits ≤ 8 then .q else .p

/-- The operation read from an instruction whose bits are `w`, numbered as the opcode table numbers them. The table is
printed for TIME_W = 32. -/
def decodeTableWord (nbits w : Nat) : Option Instr :=
  (decode defaultWidths.timeW (tablePort nbits) w).toOption

end Sys2Proof
end

