-- ==== Sys2Proof/Machine/State.lean ====
section
/-! DEFINITION. The state: the block's registers, flags and constants (10_state.md), the output pins of the latest
clock cycle (R46), and the environment that drives the block (42_event_dispatch.md). -/
namespace Sys2Proof.Machine

/-- A detent event (R55). -/
inductive DetentEvent where
  | clockwise
  | counterClockwise
  deriving DecidableEq, Repr

/-- The three event keys (R89). -/
inductive EventKey where
  | clockwise
  | counterClockwise
  | pressed
  deriving DecidableEq, Repr

/-- A handler of the consumer: a name. What it does is outside the block and it returns (log entry 15). -/
abbrev Handler := Nat

/-- The handlers of each event key, in the order they were registered (R89, R90). -/
structure HandlerLists where
  clockwise : List Handler
  counterClockwise : List Handler
  pressed : List Handler
  deriving DecidableEq, Repr

/-- The block's output pins (R46). -/
structure Outputs where
  /-- `ev_valid`: a detent event fires in this cycle. -/
  evValid : Bool
  /-- `ev_dir`: `false` Clockwise, `true` CounterClockwise. -/
  evDir : Bool
  /-- `press_ev`: a debounced press event fires in this cycle. -/
  pressEv : Bool
  /-- `q_err`: the Q operation of this cycle raised NotInitialized. -/
  qErr : Bool
  /-- `fault`: the value the sticky flag has during this cycle (log entry 6). -/
  fault : Bool
  deriving DecidableEq, Repr

/-- What the environment drives on the block's input pins in one clock cycle (R46), and the environment's own choice
of the order of two Publish calls (R95). -/
structure Cycle where
  /-- `rst`. -/
  rst : Bool
  /-- The word on the Q port (R48). -/
  q : Nat
  /-- The word on the P port (R50). -/
  p : Nat
  /-- The configuration pins (R46). -/
  cfg : Config
  /-- DISPATCH_ORDER: the press event is published before a detent event of the same cycle (R95). -/
  pressFirst : Bool
  deriving DecidableEq, Repr

/-- One thing the environment does next. -/
inductive Input where
  /-- A clock cycle. -/
  | cycle (c : Cycle)
  /-- A `Subscribe(key, handler)` call between two cycles (R91). -/
  | subscribe (key : EventKey) (handler : Handler)
  deriving DecidableEq, Repr

/-- The machine: the block and its environment. -/
structure State where
  /-- The widths of the instance (R12, R13). -/
  widths : Widths
  /-- The configuration constants (R21 to R23). -/
  cfg : Config
  /-- The decoder's previous PinState (R15). -/
  prev : PinState
  /-- The step accumulator (R16). -/
  acc : Int
  /-- INIT has been performed since the last reset (R18). -/
  initialized : Bool
  /-- The timestamp of the last accepted press (R17). -/
  last : Nat
  /-- Some PRESS has been accepted since the last reset (R19). -/
  pressValid : Bool
  /-- NotInitialized has been raised since the last reset (R20). -/
  fault : Bool
  /-- The output pins in the latest clock cycle (R55, log entry 5). -/
  out : Outputs
  /-- The environment's handler lists (R90); not state of the block. -/
  handlers : HandlerLists
  /-- The handlers run in the latest step, in order, each with the key it was run for (R92). -/
  invoked : List (EventKey × Handler)
  /-- What the environment will do, the next first (R24, log entry 7). -/
  inputs : List Input
  /-- The model's own counter: how many free values have been drawn (log entry 4). -/
  draws : Nat
  deriving DecidableEq, Repr

/-- Why the machine would stop for good. It never does: the one exception of the block is a next state (R103, R110),
every table index holds an entry (R36) and every word of a port is an operation (R52). So the type has no
constructor (log entry 17). -/
inductive Fault where
  deriving DecidableEq, Repr

/-- Why the model gives a step no meaning. -/
inductive Refusal where
  /-- Raised by `exec` for an instruction without a meaning; none is left. Safe. -/
  | notModelled (mnemonic : String)
  /-- Raised by every operation in a configuration outside the legal range, which R8, R21 and U5 tell a model to
  refuse. Safe. -/
  | illegalConfiguration
  /-- Raised by a clock cycle with rst = 0 whose configuration pins differ from those held, which R14, R134 and U6 tell
  a model to refuse. Safe. -/
  | configurationChanged
  /-- Raised by a clock cycle with rst = 0 and a number on the Q port that its four pins cannot carry. Safe. -/
  | notAQWord
  /-- Raised by a clock cycle with rst = 0 and a number on the P port that its pins cannot carry. Safe. -/
  | notAPWord
  deriving DecidableEq, Repr

/-- All output pins at 0, as in a reset cycle (R122). -/
def Outputs.none : Outputs :=
  { evValid := false, evDir := false, pressEv := false, qErr := false, fault := false }

/-- The machine right after its reset (R122, R123), in the default configuration: the three flags 0, every output 0, no
handler subscribed (R90). The spec gives `prev`, `acc` and `last` no value; they hold 0 here (DESIGN CHOICE, log
entry 2). Nothing is presented yet. -/
def State.reset : State :=
  { widths := defaultWidths
    cfg := defaultConfig
    prev := 0
    acc := 0
    initialized := false
    last := 0
    pressValid := false
    fault := false
    out := Outputs.none
    handlers := { clockwise := [], counterClockwise := [], pressed := [] }
    invoked := []
    inputs := []
    draws := 0 }

end Sys2Proof.Machine
end

