-- ==== Sys2Proof/Machine/Ops.lean ====
section
/-! DEFINITION. The named operations on the state: the writes of each register and pin, the exception NotInitialized,
reset, and the refusal of an illegal configuration. -/
namespace Sys2Proof.Machine

/-- The outcome type of this machine. -/
abbrev Result := Host.Outcome State Fault Refusal

/-- Go on with a next state, or stop as the first outcome stopped. -/
def andThen (r : Result) (f : State → Result) : Result :=
  match r with
  | .next s => f s
  | .fault e => .fault e
  | .refused e => .refused e

/-- The next state of an outcome, where there is one. -/
def nextState (r : Result) : Option State :=
  match r with
  | .next s => some s
  | .fault _ => none
  | .refused _ => none

/-- Write the decoder's registers `prev` and `acc` together (00_scope.md section 5.2: all writes of one operation take
effect together). -/
def writeDecoder (prev : PinState) (acc : Int) (s : State) : State :=
  { s with prev := prev, acc := acc }

/-- `initialized <- 1` (R18). -/
def setInitialized (s : State) : State := { s with initialized := true }

/-- `fault <- 1` (R20). -/
def setFault (s : State) : State := { s with fault := true }

/-- `last <- t` and `pressValid <- 1`, which only an accepting PRESS does (R17, R19). -/
def writeLast (t : Nat) (s : State) : State :=
  { s with last := t, pressValid := true }

/-- Drive the outputs that belong to the Q port (R47, R55). -/
def driveQ (event : Option DetentEvent) (qErr : Bool) (s : State) : State :=
  { s with out := { s.out with
      evValid := event.isSome
      evDir := decide (event = some .counterClockwise)
      qErr := qErr } }

/-- Drive the output that belongs to the P port (R47, R55). -/
def driveP (pressEv : Bool) (s : State) : State :=
  { s with out := { s.out with pressEv := pressEv } }

/-- The clock cycle begins: the fault pin shows the flag (R20, R46), and no handler has run yet. -/
def beginCycle (s : State) : State :=
  { s with out := { s.out with fault := s.fault }, invoked := [] }

/-- The environment has used the first entry of its schedule. -/
def setInputs (rest : List Input) (s : State) : State := { s with inputs := rest }

/-- The causes of an exception (R102). -/
inductive Cause where
  | none
  | notInitialized
  deriving DecidableEq, Repr

/-- The code of a cause (R102); it is on no pin. -/
def causeCode (c : Cause) : Nat :=
  match c with
  | .none => 0
  | .notInitialized => 1

/-- The exception raised in the latest cycle, as `q_err` shows it (R46, R102). -/
def causeOf (s : State) : Cause := if s.out.qErr then .notInitialized else .none

/-- `raise NotInitialized` (R103): `q_err` is 1 for this cycle, no event fires, the sticky flag is set, and nothing else
is written. Control goes nowhere (R110): the machine goes on with the next cycle. -/
def raiseNotInitialized (s : State) : State := driveQ none true (setFault s)

/-- The legal values of the parameters (R8, R10, R12, R13, R21, R23). -/
def configLegal (w : Widths) (c : Config) : Bool :=
  decide (2 ≤ w.accW) && decide (1 ≤ w.timeW) &&
  decide (1 ≤ c.stepsPerDetent) && decide (c.stepsPerDetent ≤ 2 ^ (w.accW - 1) - 1) &&
  decide (c.pressDebounceMs ≤ 2 ^ w.timeW - 1)

/-- The result of an operation performed in state `s`: `t`, but for a configuration that a model refuses (R8, R21,
U5). -/
def underConfig (s t : State) : Result :=
  if configLegal s.widths s.cfg then .next t else .refused .illegalConfiguration

/-- A value cut to ACC_W bits, signed (R12). -/
def toAccWidth (w : Nat) (x : Int) : Int := (BitVec.ofInt w x).toInt

/-- A value cut to TIME_W bits, unsigned (R13, R114). -/
def toTimeWidth (w x : Nat) : Nat := x % 2 ^ w

/-- The rising edge that ends a cycle with rst = 1 (R122, R123): the flags and all outputs are 0, `prev`, `acc` and
`last` hold unspecified values of their widths (free values, log entry 3), and the configuration pins are those of the
cycle (R14, R134). The handler lists are the environment's and stay (R125). -/
def resetEdge (pins : Config) (s : State) : State :=
  { s with
    cfg := pins
    prev := freePrev s.draws
    acc := toAccWidth s.widths.accW (freeAcc s.draws)
    initialized := false
    last := toTimeWidth s.widths.timeW (freeLast s.draws)
    pressValid := false
    fault := false
    out := Outputs.none
    invoked := []
    draws := s.draws + 1 }

end Sys2Proof.Machine
end

