-- ==== Sys2Proof/Machine/Operands.lean ====
section
/-! DEFINITION. The operand forms: the PinState of two samples, the TransitionTable and its one access, the timestamp
and its modular difference. -/
namespace Sys2Proof.Machine

/-- `{a, b}`, the PinState of two samples: `(A<<1)|B` (R35, R54, R62). -/
def pinState (a b : Bool) : PinState := BitVec.ofBool a ++ BitVec.ofBool b

/-- The TransitionTable as it is stored: 16 entries of two bits in index order (R30, R33). -/
def transitionTable : List TableEntry :=
  [0b00#2, 0b01#2, 0b11#2, 0b00#2,
   0b11#2, 0b00#2, 0b00#2, 0b01#2,
   0b01#2, 0b00#2, 0b00#2, 0b11#2,
   0b00#2, 0b11#2, 0b01#2, 0b00#2]

/-- `MemRead(idx, 1)`: the entry at an index. All 16 indices hold one (R32, R36), so the default is never taken. -/
def memRead (idx : TableIndex) : TableEntry := transitionTable.getD idx.toNat 0

/-- The address of an access: `4*prev + cur` (R32). -/
def tableIndex (prev cur : PinState) : TableIndex := prev ++ cur

/-- `TT(p, c)`: the signed step delta of a transition, the entry sign-extended (R32, R63). -/
def transitionDelta (prev cur : PinState) : Int := (memRead (tableIndex prev cur)).toInt

/-- Stage 3 (R64): the delta, negated when INVERT_DIRECTION is set. -/
def direct (invert : Bool) (delta : Int) : Int := if invert then -delta else delta

/-- Stage 4 (R65): the accumulator plus the delta of the sample `cur`, over the integers. -/
def stepSum (cur : PinState) (s : State) : Int :=
  s.acc + direct s.cfg.invertDirection (transitionDelta s.prev cur)

/-- `a -_W b`: subtraction modulo `2^W`, unsigned (00_scope.md section 5.1, R82). -/
def subModulo (w : Nat) (a b : Nat) : Nat := (BitVec.ofNat w a - BitVec.ofNat w b).toNat

/-- The timestamp operand of PRESS: the TIME_W pins of `p_now` carry it modulo `2^TIME_W` (R114). -/
def timestamp (t : Nat) (s : State) : Nat := toTimeWidth s.widths.timeW t

end Sys2Proof.Machine
end

