-- ==== Sys2Proof/Machine/Flags.lean ====
section
/-! DEFINITION. The decisions that the event outputs and flags show: the three outcomes of stage 5 and the acceptance
of a press edge. -/
namespace Sys2Proof.Machine

/-- The event of stage 5 (R66): the tests on `sum`, signed, in the order of the rule. -/
def detentEvent (stepsPerDetent : Nat) (sum : Int) : Option DetentEvent :=
  if (stepsPerDetent : Int) ≤ sum then some .clockwise
  else if sum ≤ -(stepsPerDetent : Int) then some .counterClockwise
  else none

/-- What stage 5 writes to `acc` (R66): 0 with an event, `sum` without one. -/
def accAfter (stepsPerDetent : Nat) (sum : Int) : Int :=
  match detentEvent stepsPerDetent sum with
  | some _ => 0
  | none => sum

/-- Whether a PRESS with the timestamp `now` is accepted (R78 to R80): always while `pressValid` is 0, and then
without reading `last`; afterwards when strictly more than PRESS_DEBOUNCE_MS has passed. -/
def pressAccepted (now : Nat) (s : State) : Bool :=
  if s.pressValid then decide (s.cfg.pressDebounceMs < subModulo s.widths.timeW now s.last) else true

/-- The detent event that the output pins show (R55). -/
def shownEvent (o : Outputs) : Option DetentEvent :=
  if o.evValid then some (if o.evDir then .counterClockwise else .clockwise) else none

end Sys2Proof.Machine
end

