-- ==== Sys2Proof/Machine/Press.lean ====
section
/-! DEFINITION. The meanings of the P port's operations: PIDLE, PRESS (41_press.md). -/
namespace Sys2Proof.Machine

/-- PIDLE (R87): no register is written and `press_ev` is 0. -/
def execPidle (s : State) : Result := underConfig s (driveP false s)

/-- A raw press edge at `now` (R78): an accepted one is recorded and emits Pressed, any other is discarded silently
(R81). -/
def pressEdge (now : Nat) (s : State) : State :=
  if pressAccepted now s then driveP true (writeLast now s) else driveP false s

/-- PRESS t (R78); it needs no INIT (R84). -/
def execPress (t : Nat) (s : State) : Result := underConfig s (pressEdge (timestamp t s) s)

end Sys2Proof.Machine
end

