-- ==== Sys2Proof/Machine/Quadrature.lean ====
section
/-! DEFINITION. The meanings of the Q port's operations: QIDLE, STEP, INIT (40_quadrature.md). -/
namespace Sys2Proof.Machine

/-- QIDLE (R75): no register is written and the Q port's outputs are 0, also before INIT. -/
def execQidle (s : State) : Result := underConfig s (driveQ none false s)

/-- Stages 1 to 6 of a STEP that does not fault (R62 to R67), `cur` being the PinState of its samples. -/
def decoderStep (cur : PinState) (s : State) : State :=
  let sum := stepSum cur s
  driveQ (detentEvent s.cfg.stepsPerDetent sum) false
    (writeDecoder cur (accAfter s.cfg.stepsPerDetent sum) s)

/-- STEP a b (R60): the guard of stage 0 raises NotInitialized before INIT (R61). -/
def execStep (a b : Bool) (s : State) : Result :=
  underConfig s (if s.initialized then decoderStep (pinState a b) s else raiseNotInitialized s)

/-- INIT a b (R58), the same every time it is performed (R59). -/
def execInit (a b : Bool) (s : State) : Result :=
  underConfig s (driveQ none false (setInitialized (writeDecoder (pinState a b) 0 s)))

end Sys2Proof.Machine
end

