-- ==== Sys2Proof/Machine/Dispatch.lean ====
section
/-! DEFINITION. Which meaning each operation has. -/
namespace Sys2Proof.Machine

def exec (i : Instr) (s : State) : Host.Outcome State Fault Refusal :=
  match i with
  | .qidle => Sys2Proof.Machine.execQidle s
  | .step a b => Sys2Proof.Machine.execStep a b s
  | .init a b => Sys2Proof.Machine.execInit a b s
  | .pidle => Sys2Proof.Machine.execPidle s
  | .press t => Sys2Proof.Machine.execPress t s

end Sys2Proof.Machine
end

