-- ==== Sys2Proof/Machine/Events.lean ====
section
/-! DEFINITION. The environment's event dispatch (42_event_dispatch.md): Subscribe, Publish, and the binding of the
block's outputs to Publish. None of it is behaviour of the block (R88). -/
namespace Sys2Proof.Machine

/-- The number of an event key (R89). -/
def keyNumber (k : EventKey) : Nat :=
  match k with
  | .clockwise => 0
  | .counterClockwise => 1
  | .pressed => 2

/-- The direction key of a detent event (R89). -/
def keyOf (e : DetentEvent) : EventKey :=
  match e with
  | .clockwise => .clockwise
  | .counterClockwise => .counterClockwise

/-- The handlers registered for a key, in registration order (R90). -/
def handlersFor (k : EventKey) (h : HandlerLists) : List Handler :=
  match k with
  | .clockwise => h.clockwise
  | .counterClockwise => h.counterClockwise
  | .pressed => h.pressed

/-- `Subscribe(key, handler)` appends; the same handler may stand twice (R91). -/
def addHandler (k : EventKey) (x : Handler) (h : HandlerLists) : HandlerLists :=
  match k with
  | .clockwise => { h with clockwise := h.clockwise ++ [x] }
  | .counterClockwise => { h with counterClockwise := h.counterClockwise ++ [x] }
  | .pressed => { h with pressed := h.pressed ++ [x] }

/-- A step in which the environment only calls Subscribe: no clock edge, so the block and its pins stay as they are,
and no handler runs. -/
def subscribe (k : EventKey) (x : Handler) (s : State) : State :=
  { s with handlers := addHandler k x s.handlers, invoked := [] }

/-- `Publish(key)` runs every handler of the key in registration order (R92); with none, nothing happens. -/
def publish (k : EventKey) (s : State) : State :=
  { s with invoked := s.invoked ++ (handlersFor k s.handlers).map fun x => (k, x) }

/-- One Publish for a detent event that the outputs show, none otherwise (R94). -/
def publishDetent (s : State) : State :=
  match shownEvent s.out with
  | some e => publish (keyOf e) s
  | none => s

/-- One Publish for a press event that the outputs show, none otherwise (R94). -/
def publishPress (s : State) : State := if s.out.pressEv then publish .pressed s else s

/-- The environment's reaction to the outputs of a cycle (R94), the two Publish calls of coinciding events in the order
the environment chose (R95). Nothing is published for `q_err`. -/
def publishOutputs (pressFirst : Bool) (s : State) : State :=
  if pressFirst then publishDetent (publishPress s) else publishPress (publishDetent s)

end Sys2Proof.Machine
end

