-- ==== Sys2Proof/Machine/Clock.lean ====
section
/-! DEFINITION. One clock cycle: the words of the two ports decoded and performed, or a reset (R47, R122). -/
namespace Sys2Proof.Machine

/-- The cycle of `QIDLE ; PIDLE` with the configuration pins held: nothing is presented. No event can fire in it, so
the value of DISPATCH_ORDER here has no effect (log entry 16). -/
def idleCycle (cfg : Config) : Cycle :=
  { rst := false, q := 0, p := 0, cfg := cfg, pressFirst := false }

/-- Read the operation that a port's word selects, or refuse a number that is no word of the port (R52). -/
def readPort (port : Port) (w : Nat) (s : State) (f : Instr → Result) : Result :=
  match decode s.widths.timeW port w with
  | .ok i => f i
  | .error .qWordTooWide => .refused .notAQWord
  | .error .pWordTooWide => .refused .notAPWord

/-- Perform the Q operation and the P operation of a cycle. They commute (R43); the model performs Q first (log
entry 8). -/
def performBoth (i j : Instr) (s : State) : Result := andThen (exec i s) (exec j)

/-- A cycle with rst = 0 (R47): both operations are performed, then the environment takes the event pulses in the same
cycle (R94, R135). Configuration pins that changed are refused (R14, R134, U6). -/
def operatingCycle (c : Cycle) (s : State) : Result :=
  if c.cfg = s.cfg then
    readPort .q c.q s fun i =>
      readPort .p c.p s fun j =>
        andThen (performBoth i j (beginCycle s)) fun t => .next (publishOutputs c.pressFirst t)
  else .refused .configurationChanged

/-- One clock cycle. Reset has priority over everything and the words of its cycle are ignored (R107, R122). -/
def clockCycle (c : Cycle) (s : State) : Result :=
  if c.rst then .next (resetEdge c.cfg s) else operatingCycle c s

/-- What happens next: the first entry of the environment's schedule, or a cycle in which nothing is presented when the
schedule is empty (log entry 7). -/
def advance (s : State) : Result :=
  match s.inputs with
  | [] => clockCycle (idleCycle s.cfg) s
  | .cycle c :: rest => clockCycle c (setInputs rest s)
  | .subscribe k x :: rest => .next (subscribe k x (setInputs rest s))

/-- The cycle that presents one word on one port and the canonical idle word on the other (R56). At most one event can
fire in it, so the value of DISPATCH_ORDER has no effect (log entry 16). -/
def presentWord (port : Port) (w : Nat) (cfg : Config) : Cycle :=
  match port with
  | .q => { idleCycle cfg with q := w }
  | .p => { idleCycle cfg with p := w }

end Sys2Proof.Machine
end

