-- ==== Sys2Proof/Machine/Step.lean ====
section
/-! DEFINITION. The step of the machine, and where it takes its next instruction from. -/
namespace Sys2Proof.Machine

/-- One step: one clock cycle, or one Subscribe call between two cycles. -/
def step (s : State) : Host.Outcome State Fault Refusal := advance s

/-- The state in which the environment presents the word `w` in the very next cycle: the instruction is placed at the
head of the schedule (log entry 7). -/
def State.withFetchWord (s : State) (nbits w : Nat) : State :=
  { s with inputs := .cycle (presentWord (tablePort nbits) w s.cfg) :: s.inputs }

end Sys2Proof.Machine
end

