-- ==== Sys2Proof/Machine/Trace.lean ====
section
/-! DEFINITION. Trace lines and pseudo-operations as schedules of the environment (R56, R57), and the environment's
exposed operations (R96 to R100). -/
namespace Sys2Proof.Machine

/-- A trace line `<Q operation> ; <P operation>`: the cycle that presents the two words (R56). The line does not say in
which order the environment publishes two events of the cycle; that is the open parameter DISPATCH_ORDER (R95, U14),
here the argument `pressFirst` (log entry 16). -/
def traceLine (w : Widths) (cfg : Config) (pressFirst : Bool) (q p : Instr) : Input :=
  .cycle { idleCycle cfg with q := encode w.timeW q, p := encode w.timeW p, pressFirst := pressFirst }

/-- A line with only a Q operation has PIDLE (R56). No press event can fire in it, so DISPATCH_ORDER orders nothing and
its value here has no effect (log entry 16). -/
def qLine (w : Widths) (cfg : Config) (q : Instr) : Input := traceLine w cfg false q .pidle

/-- A line with only a P operation has QIDLE (R56). No detent event can fire in it, so DISPATCH_ORDER orders nothing and
its value here has no effect (log entry 16). -/
def pLine (w : Widths) (cfg : Config) (p : Instr) : Input := traceLine w cfg false .qidle p

/-- INIT with the two sample bits written together (R56). -/
def initOp (x : PinState) : Instr := .init (x.getLsbD 1) (x.getLsbD 0)

/-- STEP with the two sample bits written together (R56). -/
def stepOp (x : PinState) : Instr := .step (x.getLsbD 1) (x.getLsbD 0)

/-- `STEPS s1,...,sn` (R57), as operations of the Q port. -/
def stepsOps (xs : List PinState) : List Instr := xs.map stepOp

/-- `STEPS s1,...,sn` (R57). -/
def pseudoSteps (w : Widths) (cfg : Config) (xs : List PinState) : List Input :=
  (stepsOps xs).map (qLine w cfg)

/-- `SEQ s0,s1,...,sn` (R57). -/
def pseudoSeq (w : Widths) (cfg : Config) (x : PinState) (xs : List PinState) : List Input :=
  qLine w cfg (initOp x) :: pseudoSteps w cfg xs

/-- `WAIT n` (R57). -/
def pseudoWait (cfg : Config) (n : Nat) : List Input := List.replicate n (.cycle (idleCycle cfg))

/-- `RESET` (R57): one cycle with rst = 1; its words are ignored. -/
def pseudoReset (cfg : Config) : List Input := [.cycle { idleCycle cfg with rst := true }]

/-- The state that follows in the cyclic order `00,01,11,10` (R57). -/
def grayNext (x : PinState) : PinState :=
  match x with
  | 0b00#2 => 0b01#2
  | 0b01#2 => 0b11#2
  | 0b11#2 => 0b10#2
  | _ => 0b00#2

/-- The state that follows in the cyclic order `00,10,11,01` (R57). -/
def grayBack (x : PinState) : PinState :=
  match x with
  | 0b00#2 => 0b10#2
  | 0b10#2 => 0b11#2
  | 0b11#2 => 0b01#2
  | _ => 0b00#2

/-- The next `n` states along a cyclic order, after `x`. -/
def walk (next : PinState → PinState) : Nat → PinState → List PinState
  | 0, _ => []
  | n + 1, x => next x :: walk next n (next x)

/-- `CW` from a known `prev` (R57). -/
def pseudoCw (w : Widths) (cfg : Config) (prev : PinState) : List Input :=
  pseudoSteps w cfg (walk grayNext 4 prev)

/-- `CCW` from a known `prev` (R57). -/
def pseudoCcw (w : Widths) (cfg : Config) (prev : PinState) : List Input :=
  pseudoSteps w cfg (walk grayBack 4 prev)

/-- `OnTurned(direction, handler)` (R96). -/
def onTurned (direction : DetentEvent) (x : Handler) : Input := .subscribe (keyOf direction) x

/-- `OnPressed(handler)` (R97). -/
def onPressed (x : Handler) : Input := .subscribe .pressed x

/-- One round of the polling loop (R99): the sample read, then `idle` cycles of delay, of which no rule fixes the
number (R139). -/
def pollRound (w : Widths) (cfg : Config) (idle : Nat) (sample : PinState) : List Input :=
  qLine w cfg (stepOp sample) :: pseudoWait cfg idle

/-- The exposed `Initialize()` in terms of the block (R98, R126): the initial two-bit state, then the polling loop on
the samples that the environment reads. -/
def initializeCall (w : Widths) (cfg : Config) (idle : Nat) (first : PinState) (samples : List PinState) :
    List Input :=
  qLine w cfg (initOp first) :: samples.flatMap (pollRound w cfg idle)

/-- The press path (R100): one raw press edge at the clock's value `now` (R114, R115). -/
def rawPressEdge (w : Widths) (cfg : Config) (now : Nat) : Input :=
  pLine w cfg (.press (toTimeWidth w.timeW now))

end Sys2Proof.Machine
end

