-- ==== Sys2Proof/Safety.lean ====
section
/-! DEFINITION. The notions the claims are stated in: the invariant of every step, the good state, the agreement that
hides unspecified registers, the mirror image under inversion, and runs of operations. -/
namespace Sys2Proof.Machine

/-- A state that has not gone wrong (R20, U2): no NotInitialized since the last reset. -/
abbrev Good (s : State) : Prop := s.fault = false

/-- The configuration is one that a model gives a meaning (R8, R21). -/
abbrev Legal (s : State) : Prop := configLegal s.widths s.cfg = true

/-- The bound on the accumulator that R27 states. -/
abbrev AccBound (s : State) : Prop :=
  -(s.cfg.stepsPerDetent : Int) < s.acc ∧ s.acc < s.cfg.stepsPerDetent

/-- The invariant of every step. -/
structure Inv (s : State) : Prop where
  /-- R27. -/
  accBound : s.initialized = true → AccBound s
  /-- `acc` fits ACC_W bits (R16). -/
  accFits : -(2 ^ (s.widths.accW - 1) : Int) ≤ s.acc ∧ s.acc < 2 ^ (s.widths.accW - 1)
  /-- `last` fits TIME_W bits (R17). -/
  lastFits : s.last < 2 ^ s.widths.timeW
  /-- `ev_dir` is 0 when `ev_valid` is 0 (R46). -/
  dirNeedsEvent : s.out.evDir = true → s.out.evValid = true
  /-- `ev_valid` and `q_err` are never both 1 in one cycle (R55). -/
  eventExcludesError : ¬(s.out.evValid = true ∧ s.out.qErr = true)
  /-- An event comes from an initialized decoder (R61). -/
  eventNeedsInit : s.out.evValid = true → s.initialized = true
  /-- A raised NotInitialized is recorded (R103). -/
  errorRecorded : s.out.qErr = true → s.fault = true
  /-- A press event is recorded (R78). -/
  pressRecorded : s.out.pressEv = true → s.pressValid = true
  /-- The flag is sticky: once the pin has shown it, it is set (R20). -/
  faultSticky : s.out.fault = true → s.fault = true

/-- `t` is `s` but for registers whose value is unspecified: `prev` and `acc` while `initialized` is 0, `last` while
`pressValid` is 0 (R123). Everything else, the output pins among it, is the same. -/
structure SameButUnspecified (s t : State) : Prop where
  rest : t = { s with prev := t.prev, acc := t.acc, last := t.last }
  decoder : s.initialized = true → t.prev = s.prev ∧ t.acc = s.acc
  debouncer : s.pressValid = true → t.last = s.last

/-- Two outcomes that no observer can tell apart (R123). -/
def SameResult (r r' : Result) : Prop :=
  match r, r' with
  | .next s, .next t => SameButUnspecified s t
  | .refused e, .refused e' => e = e'
  | _, _ => False

/-- The other detent event. -/
def otherEvent (e : DetentEvent) : DetentEvent :=
  match e with
  | .clockwise => .counterClockwise
  | .counterClockwise => .clockwise

/-- The same block with INVERT_DIRECTION the other way and the accumulator negated, `ev_dir` naming the other
direction (R64). -/
def mirror (s : State) : State :=
  { s with
    cfg := { s.cfg with invertDirection := !s.cfg.invertDirection }
    acc := -s.acc
    out := { s.out with evDir := s.out.evValid ^^ s.out.evDir } }

/-- The detent event that the operation `i` fired, `o` being the outputs it left. An event belongs to the Q operation
that fires it and a pulse is one event (R55, R106), so a P operation, which leaves the Q port's pins as they were, fires
none. -/
def firedEvent (i : Instr) (o : Outputs) : Option DetentEvent :=
  match portOf i with
  | .q => shownEvent o
  | .p => none

/-- The detent events and the last state of a run of operations of either port, each performed on the state its
predecessor left (R41). -/
def runOps : List Instr → State → Option (State × List DetentEvent)
  | [], s => some (s, [])
  | i :: is, s =>
    match exec i s with
    | .next t => (runOps is t).map fun r => (r.1, (firedEvent i t.out).toList ++ r.2)
    | .fault _ => none
    | .refused _ => none

/-- The true times at which a stream of PRESS operations is accepted, each time presented modulo `2^TIME_W` as R114
says (the meaning of PRESS cuts its operand to TIME_W bits). -/
def acceptedTimes : List Nat → State → List Nat
  | [], _ => []
  | t :: ts, s =>
    match exec (.press t) s with
    | .next u => if u.out.pressEv then t :: acceptedTimes ts u else acceptedTimes ts u
    | .fault _ => []
    | .refused _ => []

end Sys2Proof.Machine
end

