-- ==== Sys2Proof/Certificates/Slice0/Obligations.lean ====
section
/-! DEFINITION. The statements for the provers, made from the numbered rules of spec/. -/

open Sys2Proof Sys2Proof.Machine

/-! ### Encodings (30_encoding.md) -/

/-- Words written out bit by bit from R49 and R51. -/
def Obligations.WrittenOutWordsDecode : Prop :=
  decode 32 .q 0b0000 = .ok .qidle ∧
  decode 32 .q 0b0111 = .ok .qidle ∧
  decode 32 .q 0b1001 = .ok (.step false true) ∧
  decode 32 .q 0b1010 = .ok (.step true false) ∧
  decode 32 .q 0b1101 = .ok (.init false true) ∧
  decode 32 .q 0b1110 = .ok (.init true false) ∧
  decode 32 .p 0x000000063 = .ok .pidle ∧
  decode 32 .p 0x100000028 = .ok (.press 40) ∧
  decode 32 .p 0x1FFFFFFFF = .ok (.press 0xFFFFFFFF)

/-- R49: the 16 Q words and their operands, for every TIME_W. -/
def Obligations.QuadratureWordsDecode : Prop :=
  ∀ timeW : Nat,
    (∀ w : Nat, w ≤ 0x7 → decode timeW .q w = .ok .qidle) ∧
    (∀ a b : Bool, decode timeW .q (0x8 + 2 * a.toNat + b.toNat) = .ok (.step a b)) ∧
    (∀ a b : Bool, decode timeW .q (0xC + 2 * a.toNat + b.toNat) = .ok (.init a b)) ∧
    (∀ w : Nat, w < 16 → ∃ i, decode timeW .q w = .ok i ∧
      (w &&& 0x8 = 0x0 ↔ mnemonicOf i = "QIDLE") ∧ (w &&& 0xC = 0x8 ↔ mnemonicOf i = "STEP") ∧
      (w &&& 0xC = 0xC ↔ mnemonicOf i = "INIT"))

/-- R51: the P words for every TIME_W. -/
def Obligations.PressWordsDecode : Prop :=
  ∀ timeW t : Nat, t < 2 ^ timeW →
    decode timeW .p t = .ok .pidle ∧
    decode timeW .p (2 ^ timeW + t) = .ok (.press t) ∧
    t &&& 2 ^ timeW = 0 ∧ (2 ^ timeW + t) &&& 2 ^ timeW = 2 ^ timeW

/-- R52: every word of a port selects exactly one row of the port's table by mask and match alone, and that row is the
one of the operation that the word decodes to. -/
def Obligations.EveryWordSelectsExactlyOneRow : Prop :=
  ∀ (timeW : Nat) (port : Port) (w : Nat), w < 2 ^ portWidth timeW port →
    (∃! row : TableRow, row ∈ opcodeTable timeW ∧ row.port = port ∧ w &&& row.mask = row.pattern) ∧
    ∃ i, decode timeW port w = .ok i ∧ portOf i = port ∧
      ∀ row ∈ opcodeTable timeW, row.port = port → w &&& row.mask = row.pattern →
        row.mnemonic = mnemonicOf i

/-- R53: two words of a port whose valid bits are clear select the same operation. -/
def Obligations.IdlePayloadBitsIgnored : Prop :=
  ∀ timeW w w' : Nat,
    (w < 2 ^ 3 → w' < 2 ^ 3 → decode timeW .q w = decode timeW .q w') ∧
    (w < 2 ^ timeW → w' < 2 ^ timeW → decode timeW .p w = decode timeW .p w')

/-- Decode of encode, for every well-formed operation and every TIME_W. -/
def Obligations.DecodeEncodeAgree : Prop :=
  ∀ (timeW : Nat) (i : Instr), wellFormed timeW i = true →
    decode timeW (portOf i) (encode timeW i) = .ok i

/-- What the decoder answers is a well-formed operation of the port, and every word whose valid bit is set (from 8 on
the Q port, from `2^TIME_W` on the P port) is the encoding of what it decodes to: no bit of it is dropped. -/
def Obligations.EncodeDecodeAgree : Prop :=
  ∀ (timeW : Nat) (port : Port) (w : Nat) (i : Instr), decode timeW port w = .ok i →
    wellFormed timeW i = true ∧ portOf i = port ∧
    (port = .q → 8 ≤ w → encode timeW i = w) ∧ (port = .p → 2 ^ timeW ≤ w → encode timeW i = w)

/-! ### The TransitionTable (20_memory.md) -/

/-- R30: the 16 entries in index order `4*prev + cur`. -/
def Obligations.TransitionTableContents : Prop :=
  ∀ p c : PinState,
    transitionDelta p c =
      ([0, 1, -1, 0, -1, 0, 0, 1, 1, 0, 0, -1, 0, -1, 1, 0] : List Int).getD (4 * p.toNat + c.toNat) 7

/-- R33: the stored patterns, the packed constant, and the read through it. -/
def Obligations.TransitionTableStorage : Prop :=
  transitionTable.length = 16 ∧
  (∀ p c : PinState, (tableIndex p c).toNat = 4 * p.toNat + c.toNat) ∧
  (∀ idx : TableIndex, memRead idx = (0x1CC14334#32).extractLsb' (2 * idx.toNat) 2) ∧
  (∀ idx : TableIndex, memRead idx ≠ 0b10#2) ∧
  (∀ p c : PinState, transitionDelta p c =
    ((0x1CC14334#32).extractLsb' (2 * (4 * p.toNat + c.toNat)) 2).toInt)

/-- R31: the eight properties of the table. -/
def Obligations.TransitionTableProperties : Prop :=
  (∀ p, transitionDelta p p = 0) ∧
  (∀ p c, p ^^^ c = 0b11#2 → transitionDelta p c = 0) ∧
  (∀ p c, (p ^^^ c = 0b01#2 ∨ p ^^^ c = 0b10#2) → transitionDelta p c = 1 ∨ transitionDelta p c = -1) ∧
  (∀ p c, transitionDelta c p = -transitionDelta p c) ∧
  ((List.finRange 16).countP (fun k => (memRead (BitVec.ofFin k)).toInt = 1) = 4 ∧
    (List.finRange 16).countP (fun k => (memRead (BitVec.ofFin k)).toInt = -1) = 4 ∧
    (List.finRange 16).countP (fun k => (memRead (BitVec.ofFin k)).toInt = 0) = 8) ∧
  (∀ pA pB cA cB : Bool,
    transitionDelta (pinState pA pB) (pinState cA cB) =
      if ((pA ^^ cA) ^^ (pB ^^ cB)) then (if pA ^^ cB then 1 else -1) else 0) ∧
  (transitionDelta 0b00#2 0b01#2 = 1 ∧ transitionDelta 0b01#2 0b11#2 = 1 ∧
    transitionDelta 0b11#2 0b10#2 = 1 ∧ transitionDelta 0b10#2 0b00#2 = 1) ∧
  (∀ p c, transitionDelta (~~~p) (~~~c) = transitionDelta p c)

/-- R130: what the decoder counts for 2, 3 and 4 true quarter-steps between two samples, in either direction, and the
torn sample of R129. -/
def Obligations.UndersampledMotionCounts : Prop :=
  ∀ p : PinState,
    transitionDelta p (grayNext p) = 1 ∧ transitionDelta p (grayBack p) = -1 ∧
    transitionDelta p (grayNext (grayNext p)) = 0 ∧
    transitionDelta p (grayNext (grayNext (grayNext p))) = -1 ∧
    transitionDelta p (grayBack (grayBack (grayBack p))) = 1 ∧
    grayNext (grayNext (grayNext (grayNext p))) = p ∧
    transitionDelta 0b00#2 0b10#2 + transitionDelta 0b10#2 0b11#2 = -2

/-! ### Quadrature operations (40_quadrature.md) -/

/-- R58, R59: INIT in every state of a legal configuration, initialized or not, faulted or not. -/
def Obligations.InitCapturesSamples : Prop :=
  ∀ (a b : Bool) (s : State), Legal s →
    exec (.init a b) s = .next { s with
      prev := BitVec.ofNat 2 (2 * a.toNat + b.toNat)
      acc := 0
      initialized := true
      out := { s.out with evValid := false, evDir := false, qErr := false } }

/-- R75: QIDLE, also before INIT. -/
def Obligations.QidleChangesNothing : Prop :=
  ∀ s : State, Legal s →
    exec .qidle s = .next { s with out := { s.out with evValid := false, evDir := false, qErr := false } }

/-- R61: the guard of STEP. -/
def Obligations.StepBeforeInitRaises : Prop :=
  ∀ (a b : Bool) (s : State), Legal s → s.initialized = false →
    exec (.step a b) s = .next { s with
      fault := true
      out := { s.out with evValid := false, evDir := false, qErr := true } }

/-- R62, R63, R65, R66, R67: STEP after INIT. The sum is written from the table of R30, the outcome from the table of
R66, the sign from R64. -/
def Obligations.StepCountsAndFires : Prop :=
  ∀ (a b : Bool) (s : State), Legal s → s.initialized = true →
    ∃ t, exec (.step a b) s = .next t ∧
      t.prev = BitVec.ofNat 2 (2 * a.toNat + b.toNat) ∧
      ∀ delta sum : Int,
        delta = ([0, 1, -1, 0, -1, 0, 0, 1, 1, 0, 0, -1, 0, -1, 1, 0] : List Int).getD
          (4 * s.prev.toNat + (2 * a.toNat + b.toNat)) 7 →
        sum = s.acc + (if s.cfg.invertDirection then -delta else delta) →
        ((s.cfg.stepsPerDetent : Int) ≤ sum →
          t.acc = 0 ∧ t.out.evValid = true ∧ t.out.evDir = false ∧ t.out.qErr = false) ∧
        (sum ≤ -(s.cfg.stepsPerDetent : Int) →
          t.acc = 0 ∧ t.out.evValid = true ∧ t.out.evDir = true ∧ t.out.qErr = false) ∧
        (-(s.cfg.stepsPerDetent : Int) < sum → sum < s.cfg.stepsPerDetent →
          t.acc = sum ∧ t.out.evValid = false ∧ t.out.evDir = false ∧ t.out.qErr = false)

/-- R111: after a STEP that faulted, INIT recovers the decoder with `fault` still 1, and a second STEP faults again with
the same effect. -/
def Obligations.FaultStaysAfterRecovery : Prop :=
  ∀ (a b c d : Bool) (s : State), Legal s → s.initialized = false →
    ∃ t, exec (.step a b) s = .next t ∧ t.fault = true ∧
      (∃ u, exec (.init c d) t = .next u ∧ u.initialized = true ∧ u.acc = 0 ∧ u.fault = true ∧
        u.out.qErr = false ∧ ∃ v, exec (.step a b) u = .next v ∧ v.out.qErr = false ∧ v.fault = true) ∧
      exec (.step c d) t = .next t

/-- R68: both lines changed between two samples. -/
def Obligations.IllegalTransitionIsNoMotion : Prop :=
  ∀ (a b : Bool) (s : State), Legal s → s.initialized = true → AccBound s →
    s.prev ^^^ BitVec.ofNat 2 (2 * a.toNat + b.toNat) = 0b11#2 →
    exec (.step a b) s = .next { s with
      prev := ~~~s.prev
      out := { s.out with evValid := false, evDir := false, qErr := false } }

/-- R69: the unchanged state, fed any number of times. -/
def Obligations.UnchangedSampleIsNoMotion : Prop :=
  ∀ (n : Nat) (s : State), Legal s → s.initialized = true → AccBound s →
    runOps (List.replicate (n + 1) (.step (s.prev.getLsbD 1) (s.prev.getLsbD 0))) s =
      some ({ s with out := { s.out with evValid := false, evDir := false, qErr := false } }, [])

/-- R70: an event fires exactly at the threshold. -/
def Obligations.ThresholdReachedExactly : Prop :=
  ∀ (a b : Bool) (s t : State), s.initialized = true → AccBound s → exec (.step a b) s = .next t →
    t.out.evValid = true →
    (t.out.evDir = false → stepSum (BitVec.ofNat 2 (2 * a.toNat + b.toNat)) s = s.cfg.stepsPerDetent) ∧
    (t.out.evDir = true → stepSum (BitVec.ofNat 2 (2 * a.toNat + b.toNat)) s = -(s.cfg.stepsPerDetent : Int))

/-- R71, first sentence: with one quarter-step per detent every valid transition fires in its own STEP. -/
def Obligations.OneStepPerDetentAlwaysFires : Prop :=
  ∀ (a b : Bool) (s : State), Legal s → s.initialized = true → s.cfg.stepsPerDetent = 1 → s.acc = 0 →
    ∃ t, exec (.step a b) s = .next t ∧ t.acc = 0 ∧
      t.out.evValid = (s.prev.getLsbD 1 ^^ a ^^ s.prev.getLsbD 0 ^^ b) ∧
      (t.out.evValid = true → t.out.evDir = (s.cfg.invertDirection ^^ !(s.prev.getLsbD 1 ^^ b)))

/-- R71: `n` quarter-steps in one direction from `acc = 0` fire `n / S` events of that direction and leave the
remainder, for every S, every start and both settings of INVERT_DIRECTION. -/
def Obligations.QuarterStepRunFiresEachDetent : Prop :=
  ∀ (forward : Bool) (n : Nat) (s : State), Legal s → s.initialized = true → s.acc = 0 →
    ∃ t, runOps (stepsOps (walk (if forward then grayNext else grayBack) n s.prev)) s =
        some (t, List.replicate (n / s.cfg.stepsPerDetent)
          (if forward = s.cfg.invertDirection then .counterClockwise else .clockwise)) ∧
      t.acc = if forward = s.cfg.invertDirection then -((n % s.cfg.stepsPerDetent : Nat) : Int)
        else ((n % s.cfg.stepsPerDetent : Nat) : Int)

/-- R72: a transition and its reverse leave the count where it was, when the first fired no event. -/
def Obligations.BackAndForthCancels : Prop :=
  ∀ (a b : Bool) (s t : State), Legal s → s.initialized = true → AccBound s →
    exec (.step a b) s = .next t → t.out.evValid = false →
    ∃ u, exec (stepOp s.prev) t = .next u ∧ u.acc = s.acc ∧ u.prev = s.prev ∧ u.out.evValid = false

/-- R27: the bound on the accumulator, kept by every operation. -/
def Obligations.AccumulatorStaysBounded : Prop :=
  ∀ (i : Instr) (s t : State), (s.initialized = true → AccBound s) → exec i s = .next t →
    t.initialized = true →
    -(s.cfg.stepsPerDetent : Int) < t.acc ∧ t.acc < s.cfg.stepsPerDetent ∧ t.cfg = s.cfg

/-- R64: the same operations on the block with INVERT_DIRECTION the other way and the accumulator negated give the
negated accumulator and the other direction in the same operations. -/
def Obligations.InversionMirrorsRuns : Prop :=
  ∀ (ops : List Instr) (s : State),
    runOps ops (mirror s) = (runOps ops s).map fun r => (mirror r.1, r.2.map otherEvent)

/-- R109: within one Q operation at most one of Clockwise, CounterClockwise, NotInitialized happens. R102: the cause is
code 1 exactly for a STEP before INIT, 0 otherwise. -/
def Obligations.AtMostOneQuadratureResult : Prop :=
  ∀ (i : Instr) (s t : State), portOf i = .q → exec i s = .next t →
    ¬(t.out.evValid = true ∧ t.out.qErr = true) ∧ (t.out.evDir = true → t.out.evValid = true) ∧
    (t.out.qErr = true ↔ (s.initialized = false ∧ ∃ a b, i = .step a b)) ∧
    causeCode (causeOf t) = (if t.out.qErr = true then 1 else 0)

/-! ### Press operations (41_press.md) -/

/-- R87: PIDLE. -/
def Obligations.PidleChangesNothing : Prop :=
  ∀ s : State, Legal s → exec .pidle s = .next { s with out := { s.out with pressEv := false } }

/-- R79: the first edge after reset is accepted whatever its time. -/
def Obligations.FirstPressAccepted : Prop :=
  ∀ (t : Nat) (s : State), Legal s → s.pressValid = false → t < 2 ^ s.widths.timeW →
    exec (.press t) s = .next { s with
      last := t
      pressValid := true
      out := { s.out with pressEv := true } }

/-- R78, R80, R81: a later edge, the difference taken modulo `2^TIME_W` over the integers. -/
def Obligations.PressFiltersByInterval : Prop :=
  ∀ (t : Nat) (s : State), Legal s → s.pressValid = true → t < 2 ^ s.widths.timeW →
    exec (.press t) s = .next
      (if (s.cfg.pressDebounceMs : Int) < ((t : Int) - (s.last : Int)) % 2 ^ s.widths.timeW then
        { s with last := t, out := { s.out with pressEv := true } }
      else { s with out := { s.out with pressEv := false } })

/-- R82: the four cases of the modular difference, on two timestamps of TIME_W bits. -/
def Obligations.TimestampDifferenceIsModular : Prop :=
  ∀ (t : Nat) (s u : State), s.pressValid = true → t < 2 ^ s.widths.timeW → s.last < 2 ^ s.widths.timeW →
    exec (.press t) s = .next u →
    (s.last ≤ t → (u.out.pressEv = true ↔ s.cfg.pressDebounceMs < t - s.last)) ∧
    (t < s.last → (u.out.pressEv = true ↔ s.cfg.pressDebounceMs < 2 ^ s.widths.timeW - (s.last - t))) ∧
    (t = s.last → u.out.pressEv = false) ∧
    (∀ trueNow trueLast : Nat, t = trueNow % 2 ^ s.widths.timeW → s.last = trueLast % 2 ^ s.widths.timeW →
      trueLast ≤ trueNow → trueNow - trueLast < 2 ^ s.widths.timeW →
      (u.out.pressEv = true ↔ s.cfg.pressDebounceMs < trueNow - trueLast))

/-- R83: the smallest and the largest debounce interval. -/
def Obligations.ExtremeDebounceIntervals : Prop :=
  ∀ (t : Nat) (s : State), Legal s → s.pressValid = true → t < 2 ^ s.widths.timeW →
    s.last < 2 ^ s.widths.timeW →
    ∃ u, exec (.press t) s = .next u ∧
      (s.cfg.pressDebounceMs = 0 → (u.out.pressEv = true ↔ t ≠ s.last)) ∧
      (s.cfg.pressDebounceMs = 2 ^ s.widths.timeW - 1 → u.out.pressEv = false)

/-- R84: PRESS does not need INIT and never raises NotInitialized: the decoder's registers and flags have no part in it
and none of them is written. -/
def Obligations.PressNeedsNoInit : Prop :=
  ∀ (t : Nat) (s : State) (prev : PinState) (acc : Int) (initialized fault : Bool), Legal s →
    ∃ u, exec (.press t) s = .next u ∧ u.out.qErr = s.out.qErr ∧ u.fault = s.fault ∧
      exec (.press t) { s with prev := prev, acc := acc, initialized := initialized, fault := fault } =
        .next { u with prev := prev, acc := acc, initialized := initialized, fault := fault }

/-- R28: two accepted presses are separated by strictly more than PRESS_DEBOUNCE_MS of true time, for every stream of
times that never decrease, presented modulo `2^TIME_W`, from a block that has accepted no press yet. -/
def Obligations.AcceptedPressesAreSpaced : Prop :=
  ∀ (times : List Nat) (s : State), s.pressValid = false → times.Pairwise (fun x y => x ≤ y) →
    (acceptedTimes times s).Pairwise (fun x y => x + s.cfg.pressDebounceMs < y) ∧
    (acceptedTimes times s).Sublist times ∧
    (Legal s → (acceptedTimes times s).head? = times.head?)

/-! ### Both ports (20_memory.md section 4, 10_state.md) -/

/-- R43: a Q operation and a P operation commute, the output pins included. -/
def Obligations.PortOperationsCommute : Prop :=
  ∀ (i j : Instr) (s : State), portOf i = .q → portOf j = .p →
    andThen (exec i s) (exec j) = andThen (exec j s) (exec i)

/-- The frame of QIDLE, STEP and INIT: the debouncer, the constants, the environment and the other port's pins are
unchanged; `prev` and `acc` change only where R15 and R16 say so. -/
def Obligations.QuadratureOperationsFrame : Prop :=
  ∀ (i : Instr) (s t : State), portOf i = .q → exec i s = .next t →
    t.last = s.last ∧ t.pressValid = s.pressValid ∧ t.out.pressEv = s.out.pressEv ∧
    t.out.fault = s.out.fault ∧ t.cfg = s.cfg ∧ t.widths = s.widths ∧ t.handlers = s.handlers ∧
    t.invoked = s.invoked ∧ t.inputs = s.inputs ∧ t.draws = s.draws ∧
    (i = .qidle → t.prev = s.prev ∧ t.acc = s.acc ∧ t.initialized = s.initialized ∧ t.fault = s.fault) ∧
    (∀ a b, i = .step a b → t.initialized = s.initialized ∧
      (s.initialized = false → t.prev = s.prev ∧ t.acc = s.acc) ∧
      (s.initialized = true → t.fault = s.fault)) ∧
    (∀ a b, i = .init a b → t.fault = s.fault)

/-- The frame of PIDLE and PRESS: the decoder, both its flags, the constants, the environment and the other port's pins
are unchanged; `last` and `pressValid` change only with an accepted edge. -/
def Obligations.PressOperationsFrame : Prop :=
  ∀ (i : Instr) (s t : State), portOf i = .p → exec i s = .next t →
    t.prev = s.prev ∧ t.acc = s.acc ∧ t.initialized = s.initialized ∧ t.fault = s.fault ∧
    t.out.evValid = s.out.evValid ∧ t.out.evDir = s.out.evDir ∧ t.out.qErr = s.out.qErr ∧
    t.out.fault = s.out.fault ∧ t.cfg = s.cfg ∧ t.widths = s.widths ∧ t.handlers = s.handlers ∧
    t.invoked = s.invoked ∧ t.inputs = s.inputs ∧ t.draws = s.draws ∧
    (t.out.pressEv = false → t.last = s.last ∧ t.pressValid = s.pressValid) ∧
    (i = .pidle → t.out.pressEv = false)

/-- R18, R19, R20: which operation changes which flag. -/
def Obligations.FlagsChangeOnlyAsSpecified : Prop :=
  ∀ (i : Instr) (s t : State), exec i s = .next t →
    (t.initialized = true ↔ s.initialized = true ∨ ∃ a b, i = .init a b) ∧
    (t.fault = true ↔ s.fault = true ∨ (s.initialized = false ∧ ∃ a b, i = .step a b)) ∧
    (t.pressValid = true ↔ s.pressValid = true ∨ ∃ x, i = .press x)

/-- R8, R21, U5: no operation has a meaning with STEPS_PER_DETENT outside its legal range (log entry 10). -/
def Obligations.IllegalConfigurationRefused : Prop :=
  ∀ (i : Instr) (s : State),
    (s.cfg.stepsPerDetent = 0 ∨ 2 ^ (s.widths.accW - 1) - 1 < s.cfg.stepsPerDetent) →
    exec i s = .refused .illegalConfiguration

/-! ### Clock cycles, reset and the environment -/

/-- A step runs the operations that the words of the cycle decode to. Around `exec` the step takes the entry off the
schedule, shows the flag on the fault pin, forgets the handlers of the step before, and publishes the events. The model's
choices in it: the cycle is the head of a schedule (log entry 7), the Q operation is performed before the P operation,
of which R47 gives no order (log entry 8), the fault pin shows the flag as it is before the edge that ends the cycle (log
entry 6, unsafe), and the record of handlers starts anew in each step (log entry 15). The order of the two Publish calls
is the cycle's own (log entry 16). -/
def Obligations.StepRunsDecodedOperations : Prop :=
  ∀ (s : State) (c : Cycle) (rest : List Input) (i j : Instr),
    s.inputs = .cycle c :: rest → c.rst = false → c.cfg = s.cfg →
    decode s.widths.timeW .q c.q = .ok i → decode s.widths.timeW .p c.p = .ok j →
    step s = andThen (andThen (exec i { s with
        inputs := rest
        invoked := []
        out := { s.out with fault := s.fault } }) (exec j))
      fun t => .next (publishOutputs c.pressFirst t)

/-- A trace line of two well-formed operations performs exactly those (R56), for either order of the two Publish calls,
which R95 leaves open and R56 does not write (log entry 16). The model's choices in it are those of
StepRunsDecodedOperations: the schedule (log entry 7), Q before P (log entry 8), the fault pin showing the flag as it is
before the edge (log entry 6, unsafe) and the record of handlers (log entry 15). -/
def Obligations.TraceLinePerformsBoth : Prop :=
  ∀ (s : State) (rest : List Input) (pressFirst : Bool) (i j : Instr),
    portOf i = .q → portOf j = .p → wellFormed s.widths.timeW i = true → wellFormed s.widths.timeW j = true →
    step { s with inputs := traceLine s.widths s.cfg pressFirst i j :: rest } =
      andThen (andThen (exec i { s with
          inputs := rest
          invoked := []
          out := { s.out with fault := s.fault } }) (exec j))
        fun t => .next (publishOutputs pressFirst t)

/-- R107, R122, R123, R125: a cycle with rst = 1, whatever its words are. The model's choices in it: the constants become
those of the cycle's pins (log entry 11), the cycle is the head of a schedule (log entry 7), and the record of handlers
is empty (log entry 15). -/
def Obligations.ResetCycleClearsFlagsAndOutputs : Prop :=
  ∀ (s : State) (c : Cycle) (rest : List Input), s.inputs = .cycle c :: rest → c.rst = true →
    ∃ t, step s = .next t ∧ t.initialized = false ∧ t.pressValid = false ∧ t.fault = false ∧
      t.out = { evValid := false, evDir := false, pressEv := false, qErr := false, fault := false } ∧
      t.invoked = [] ∧ t.handlers = s.handlers ∧ t.widths = s.widths ∧ t.cfg = c.cfg ∧ t.inputs = rest

/-- R122, R123, R90: the values that the spec gives the state after reset; that State.reset holds the default
configuration and widths is log entry 1. -/
def Obligations.ResetStateAsSpecified : Prop :=
  State.reset.initialized = false ∧ State.reset.pressValid = false ∧ State.reset.fault = false ∧
  State.reset.out = { evValid := false, evDir := false, pressEv := false, qErr := false, fault := false } ∧
  State.reset.cfg.stepsPerDetent = 4 ∧ State.reset.cfg.invertDirection = false ∧
  State.reset.cfg.pressDebounceMs = 30 ∧ State.reset.widths.accW = 8 ∧ State.reset.widths.timeW = 32 ∧
  State.reset.handlers.clockwise = [] ∧ State.reset.handlers.counterClockwise = [] ∧
  State.reset.handlers.pressed = []

/-- With an empty schedule a step is a cycle of QIDLE and PIDLE, which is the model's choice (log entry 7): the pulses of
the cycle before are gone (R106) and no register changes. The fault pin shows the flag as it is before the edge (log
entry 6, unsafe), and the record of handlers is empty (log entry 15). -/
def Obligations.NothingPresentedChangesNothing : Prop :=
  ∀ s : State, Legal s → s.inputs = [] →
    step s = .next { s with
      invoked := []
      out := { evValid := false, evDir := false, pressEv := false, qErr := false, fault := s.fault } }

/-- R14, R134, U6: configuration pins that change in a cycle with rst = 0 are refused, and no step with rst = 0 changes
a constant or a width. That each cycle carries the pins is the model's form of it (log entries 7 and 11). -/
def Obligations.ConfigurationIsHeld : Prop :=
  ∀ (s : State) (c : Cycle) (rest : List Input), s.inputs = .cycle c :: rest → c.rst = false →
    (c.cfg ≠ s.cfg → step s = .refused .configurationChanged) ∧
    (∀ t, step s = .next t → c.cfg = s.cfg ∧ t.cfg = s.cfg ∧ t.widths = s.widths ∧ Legal s)

/-- R91: Subscribe appends to the list of its key and to no other, and does nothing to the block. That the call is a step
of its own between two cycles, after which no handler has run, is the model's choice (log entries 7 and 15). -/
def Obligations.SubscribeAppends : Prop :=
  ∀ (s : State) (k : EventKey) (x : Handler) (rest : List Input), s.inputs = .subscribe k x :: rest →
    ∃ t, step s = .next t ∧ handlersFor k t.handlers = handlersFor k s.handlers ++ [x] ∧
      (∀ k', k' ≠ k → handlersFor k' t.handlers = handlersFor k' s.handlers) ∧
      t = { s with handlers := t.handlers, invoked := [], inputs := rest }

/-- R94, R92, R95: what the environment runs after the two operations of a cycle, in either order of the two Publish
calls. -/
def Obligations.EventsArePublished : Prop :=
  ∀ (pressFirst : Bool) (s : State),
    publishOutputs pressFirst s = { s with
      invoked := s.invoked ++
        (let detent := if s.out.evValid then
            (if s.out.evDir then s.handlers.counterClockwise.map fun x => (EventKey.counterClockwise, x)
             else s.handlers.clockwise.map fun x => (EventKey.clockwise, x))
          else []
         let press := if s.out.pressEv then s.handlers.pressed.map fun x => (EventKey.pressed, x) else []
         if pressFirst then press ++ detent else detent ++ press) }

/-- R89: the number of a direction key equals the `ev_dir` bit, and the press key has a number of its own. -/
def Obligations.DirectionKeyEqualsPin : Prop :=
  (∀ (o : Outputs) (e : DetentEvent), shownEvent o = some e →
    o.evValid = true ∧ keyNumber (keyOf e) = o.evDir.toNat) ∧
  keyNumber .clockwise = 0 ∧ keyNumber .counterClockwise = 1 ∧ keyNumber .pressed = 2

/-- R128, R126: an initialized block that has not gone wrong never raises NotInitialized before the next reset, whatever
is presented. -/
def Obligations.InitializedBlockNeverFaults : Prop :=
  ∀ s t : State, s.initialized = true → Good s → step s = .next t →
    Good t ∧ ((∀ k x rest, s.inputs ≠ .subscribe k x :: rest) → t.out.qErr = false) ∧
    ((∀ c rest, s.inputs = .cycle c :: rest → c.rst = false) → t.initialized = true)

/-- The invariant of every step, from every state that meets it. After a reset cycle `acc` and `last` are free values of
their widths (log entry 3), so it holds for every such value; its clause about the fault pin rests on log entry 6. -/
def Obligations.StepKeepsInvariant : Prop :=
  ∀ s t : State, Inv s → step s = .next t → Inv t

/-- The invariant holds right after reset; the values of `prev`, `acc` and `last` there are the model's choice (log
entry 2). -/
def Obligations.ResetMeetsInvariant : Prop := Inv State.reset

/-- R123: no value that the spec leaves unspecified is observable. Two states that differ only in such values give the
same outputs, the same handler runs and the same stop, and again differ only in such values. -/
def Obligations.UnspecifiedRegistersUnobservable : Prop :=
  ∀ s t : State, SameButUnspecified s t → SameResult (step s) (step t)
end

