-- ==== Sys2Proof/Laws/Decode.lean ====
section
/-! SUPPORT. What the decoder answers on each form of word. -/
namespace Sys2Proof

theorem decode_q_of_lt {timeW w : Nat} (h : w < 16) :
    decode timeW .q w = .ok (decodeQ (BitVec.ofNat 4 w)) := by
  simp only [decode, if_pos h]

theorem decode_p_of_lt {timeW w : Nat} (h : w < 2 ^ (timeW + 1)) :
    decode timeW .p w = .ok (decodeP timeW w) := by
  simp only [decode, if_pos h]

theorem decodeP_idle {timeW w : Nat} (h : w < 2 ^ timeW) : decodeP timeW w = .pidle := by
  simp [decodeP, Nat.div_eq_of_lt h]

theorem decodeP_press {timeW t : Nat} (h : t < 2 ^ timeW) : decodeP timeW (2 ^ timeW + t) = .press t := by
  have hp : 0 < 2 ^ timeW := by positivity
  simp [decodeP, Nat.add_div_left _ hp, Nat.div_eq_of_lt h, Nat.mod_eq_of_lt h]

/-- The encoding of an operation of the Q port is its word, once the valid bit is set. -/
theorem encode_decodeQ {timeW w : Nat} (h : w < 16) (hv : 8 ≤ w) :
    encode timeW (decodeQ (BitVec.ofNat 4 w)) = w := by
  interval_cases w <;> rfl

/-- A P word is an idle word or the word of a press. -/
theorem pWord_cases {timeW w : Nat} (h : w < 2 ^ (timeW + 1)) :
    w < 2 ^ timeW ∨ ∃ t, t < 2 ^ timeW ∧ w = 2 ^ timeW + t := by
  rw [pow_succ] at h
  rcases lt_or_ge w (2 ^ timeW) with h' | h'
  · exact .inl h'
  · exact .inr ⟨w - 2 ^ timeW, by omega, by omega⟩

end Sys2Proof
end

