-- ==== Sys2Proof/Laws/State.lean ====
section
/-! SUPPORT. One lemma for each field of State after each named update, true by definition, so that no proof unfolds a
record update. -/
namespace Sys2Proof.Machine

section
variable (s : State)

/-! #### writeDecoder -/
@[simp] theorem writeDecoder_widths (p : PinState) (x : Int) : (writeDecoder p x s).widths = s.widths := rfl
@[simp] theorem writeDecoder_cfg (p : PinState) (x : Int) : (writeDecoder p x s).cfg = s.cfg := rfl
@[simp] theorem writeDecoder_prev (p : PinState) (x : Int) : (writeDecoder p x s).prev = p := rfl
@[simp] theorem writeDecoder_acc (p : PinState) (x : Int) : (writeDecoder p x s).acc = x := rfl
@[simp] theorem writeDecoder_initialized (p : PinState) (x : Int) : (writeDecoder p x s).initialized =
    s.initialized := rfl
@[simp] theorem writeDecoder_last (p : PinState) (x : Int) : (writeDecoder p x s).last = s.last := rfl
@[simp] theorem writeDecoder_pressValid (p : PinState) (x : Int) : (writeDecoder p x s).pressValid =
    s.pressValid := rfl
@[simp] theorem writeDecoder_fault (p : PinState) (x : Int) : (writeDecoder p x s).fault = s.fault := rfl
@[simp] theorem writeDecoder_out (p : PinState) (x : Int) : (writeDecoder p x s).out = s.out := rfl
@[simp] theorem writeDecoder_handlers (p : PinState) (x : Int) : (writeDecoder p x s).handlers = s.handlers := rfl
@[simp] theorem writeDecoder_invoked (p : PinState) (x : Int) : (writeDecoder p x s).invoked = s.invoked := rfl
@[simp] theorem writeDecoder_inputs (p : PinState) (x : Int) : (writeDecoder p x s).inputs = s.inputs := rfl
@[simp] theorem writeDecoder_draws (p : PinState) (x : Int) : (writeDecoder p x s).draws = s.draws := rfl

/-! #### setInitialized -/
@[simp] theorem setInitialized_widths : (setInitialized s).widths = s.widths := rfl
@[simp] theorem setInitialized_cfg : (setInitialized s).cfg = s.cfg := rfl
@[simp] theorem setInitialized_prev : (setInitialized s).prev = s.prev := rfl
@[simp] theorem setInitialized_acc : (setInitialized s).acc = s.acc := rfl
@[simp] theorem setInitialized_initialized : (setInitialized s).initialized = true := rfl
@[simp] theorem setInitialized_last : (setInitialized s).last = s.last := rfl
@[simp] theorem setInitialized_pressValid : (setInitialized s).pressValid = s.pressValid := rfl
@[simp] theorem setInitialized_fault : (setInitialized s).fault = s.fault := rfl
@[simp] theorem setInitialized_out : (setInitialized s).out = s.out := rfl
@[simp] theorem setInitialized_handlers : (setInitialized s).handlers = s.handlers := rfl
@[simp] theorem setInitialized_invoked : (setInitialized s).invoked = s.invoked := rfl
@[simp] theorem setInitialized_inputs : (setInitialized s).inputs = s.inputs := rfl
@[simp] theorem setInitialized_draws : (setInitialized s).draws = s.draws := rfl

/-! #### setFault -/
@[simp] theorem setFault_widths : (setFault s).widths = s.widths := rfl
@[simp] theorem setFault_cfg : (setFault s).cfg = s.cfg := rfl
@[simp] theorem setFault_prev : (setFault s).prev = s.prev := rfl
@[simp] theorem setFault_acc : (setFault s).acc = s.acc := rfl
@[simp] theorem setFault_initialized : (setFault s).initialized = s.initialized := rfl
@[simp] theorem setFault_last : (setFault s).last = s.last := rfl
@[simp] theorem setFault_pressValid : (setFault s).pressValid = s.pressValid := rfl
@[simp] theorem setFault_fault : (setFault s).fault = true := rfl
@[simp] theorem setFault_out : (setFault s).out = s.out := rfl
@[simp] theorem setFault_handlers : (setFault s).handlers = s.handlers := rfl
@[simp] theorem setFault_invoked : (setFault s).invoked = s.invoked := rfl
@[simp] theorem setFault_inputs : (setFault s).inputs = s.inputs := rfl
@[simp] theorem setFault_draws : (setFault s).draws = s.draws := rfl

/-! #### writeLast -/
@[simp] theorem writeLast_widths (t : Nat) : (writeLast t s).widths = s.widths := rfl
@[simp] theorem writeLast_cfg (t : Nat) : (writeLast t s).cfg = s.cfg := rfl
@[simp] theorem writeLast_prev (t : Nat) : (writeLast t s).prev = s.prev := rfl
@[simp] theorem writeLast_acc (t : Nat) : (writeLast t s).acc = s.acc := rfl
@[simp] theorem writeLast_initialized (t : Nat) : (writeLast t s).initialized = s.initialized := rfl
@[simp] theorem writeLast_last (t : Nat) : (writeLast t s).last = t := rfl
@[simp] theorem writeLast_pressValid (t : Nat) : (writeLast t s).pressValid = true := rfl
@[simp] theorem writeLast_fault (t : Nat) : (writeLast t s).fault = s.fault := rfl
@[simp] theorem writeLast_out (t : Nat) : (writeLast t s).out = s.out := rfl
@[simp] theorem writeLast_handlers (t : Nat) : (writeLast t s).handlers = s.handlers := rfl
@[simp] theorem writeLast_invoked (t : Nat) : (writeLast t s).invoked = s.invoked := rfl
@[simp] theorem writeLast_inputs (t : Nat) : (writeLast t s).inputs = s.inputs := rfl
@[simp] theorem writeLast_draws (t : Nat) : (writeLast t s).draws = s.draws := rfl

/-! #### driveQ -/
@[simp] theorem driveQ_widths (e : Option DetentEvent) (q : Bool) : (driveQ e q s).widths = s.widths := rfl
@[simp] theorem driveQ_cfg (e : Option DetentEvent) (q : Bool) : (driveQ e q s).cfg = s.cfg := rfl
@[simp] theorem driveQ_prev (e : Option DetentEvent) (q : Bool) : (driveQ e q s).prev = s.prev := rfl
@[simp] theorem driveQ_acc (e : Option DetentEvent) (q : Bool) : (driveQ e q s).acc = s.acc := rfl
@[simp] theorem driveQ_initialized (e : Option DetentEvent) (q : Bool) : (driveQ e q s).initialized =
    s.initialized := rfl
@[simp] theorem driveQ_last (e : Option DetentEvent) (q : Bool) : (driveQ e q s).last = s.last := rfl
@[simp] theorem driveQ_pressValid (e : Option DetentEvent) (q : Bool) : (driveQ e q s).pressValid =
    s.pressValid := rfl
@[simp] theorem driveQ_fault (e : Option DetentEvent) (q : Bool) : (driveQ e q s).fault = s.fault := rfl
@[simp] theorem driveQ_out_evValid (e : Option DetentEvent) (q : Bool) : (driveQ e q s).out.evValid = e.isSome := rfl
@[simp] theorem driveQ_out_evDir (e : Option DetentEvent) (q : Bool) : (driveQ e q s).out.evDir = (decide (e = some .counterClockwise)) := rfl
@[simp] theorem driveQ_out_pressEv (e : Option DetentEvent) (q : Bool) : (driveQ e q s).out.pressEv = s.out.pressEv := rfl
@[simp] theorem driveQ_out_qErr (e : Option DetentEvent) (q : Bool) : (driveQ e q s).out.qErr = q := rfl
@[simp] theorem driveQ_out_fault (e : Option DetentEvent) (q : Bool) : (driveQ e q s).out.fault = s.out.fault := rfl
@[simp] theorem driveQ_handlers (e : Option DetentEvent) (q : Bool) : (driveQ e q s).handlers = s.handlers := rfl
@[simp] theorem driveQ_invoked (e : Option DetentEvent) (q : Bool) : (driveQ e q s).invoked = s.invoked := rfl
@[simp] theorem driveQ_inputs (e : Option DetentEvent) (q : Bool) : (driveQ e q s).inputs = s.inputs := rfl
@[simp] theorem driveQ_draws (e : Option DetentEvent) (q : Bool) : (driveQ e q s).draws = s.draws := rfl

/-! #### driveP -/
@[simp] theorem driveP_widths (b : Bool) : (driveP b s).widths = s.widths := rfl
@[simp] theorem driveP_cfg (b : Bool) : (driveP b s).cfg = s.cfg := rfl
@[simp] theorem driveP_prev (b : Bool) : (driveP b s).prev = s.prev := rfl
@[simp] theorem driveP_acc (b : Bool) : (driveP b s).acc = s.acc := rfl
@[simp] theorem driveP_initialized (b : Bool) : (driveP b s).initialized = s.initialized := rfl
@[simp] theorem driveP_last (b : Bool) : (driveP b s).last = s.last := rfl
@[simp] theorem driveP_pressValid (b : Bool) : (driveP b s).pressValid = s.pressValid := rfl
@[simp] theorem driveP_fault (b : Bool) : (driveP b s).fault = s.fault := rfl
@[simp] theorem driveP_out_evValid (b : Bool) : (driveP b s).out.evValid = s.out.evValid := rfl
@[simp] theorem driveP_out_evDir (b : Bool) : (driveP b s).out.evDir = s.out.evDir := rfl
@[simp] theorem driveP_out_pressEv (b : Bool) : (driveP b s).out.pressEv = b := rfl
@[simp] theorem driveP_out_qErr (b : Bool) : (driveP b s).out.qErr = s.out.qErr := rfl
@[simp] theorem driveP_out_fault (b : Bool) : (driveP b s).out.fault = s.out.fault := rfl
@[simp] theorem driveP_handlers (b : Bool) : (driveP b s).handlers = s.handlers := rfl
@[simp] theorem driveP_invoked (b : Bool) : (driveP b s).invoked = s.invoked := rfl
@[simp] theorem driveP_inputs (b : Bool) : (driveP b s).inputs = s.inputs := rfl
@[simp] theorem driveP_draws (b : Bool) : (driveP b s).draws = s.draws := rfl

/-! #### beginCycle -/
@[simp] theorem beginCycle_widths : (beginCycle s).widths = s.widths := rfl
@[simp] theorem beginCycle_cfg : (beginCycle s).cfg = s.cfg := rfl
@[simp] theorem beginCycle_prev : (beginCycle s).prev = s.prev := rfl
@[simp] theorem beginCycle_acc : (beginCycle s).acc = s.acc := rfl
@[simp] theorem beginCycle_initialized : (beginCycle s).initialized = s.initialized := rfl
@[simp] theorem beginCycle_last : (beginCycle s).last = s.last := rfl
@[simp] theorem beginCycle_pressValid : (beginCycle s).pressValid = s.pressValid := rfl
@[simp] theorem beginCycle_fault : (beginCycle s).fault = s.fault := rfl
@[simp] theorem beginCycle_out_evValid : (beginCycle s).out.evValid = s.out.evValid := rfl
@[simp] theorem beginCycle_out_evDir : (beginCycle s).out.evDir = s.out.evDir := rfl
@[simp] theorem beginCycle_out_pressEv : (beginCycle s).out.pressEv = s.out.pressEv := rfl
@[simp] theorem beginCycle_out_qErr : (beginCycle s).out.qErr = s.out.qErr := rfl
@[simp] theorem beginCycle_out_fault : (beginCycle s).out.fault = s.fault := rfl
@[simp] theorem beginCycle_handlers : (beginCycle s).handlers = s.handlers := rfl
@[simp] theorem beginCycle_invoked : (beginCycle s).invoked = [] := rfl
@[simp] theorem beginCycle_inputs : (beginCycle s).inputs = s.inputs := rfl
@[simp] theorem beginCycle_draws : (beginCycle s).draws = s.draws := rfl

/-! #### setInputs -/
@[simp] theorem setInputs_widths (l : List Input) : (setInputs l s).widths = s.widths := rfl
@[simp] theorem setInputs_cfg (l : List Input) : (setInputs l s).cfg = s.cfg := rfl
@[simp] theorem setInputs_prev (l : List Input) : (setInputs l s).prev = s.prev := rfl
@[simp] theorem setInputs_acc (l : List Input) : (setInputs l s).acc = s.acc := rfl
@[simp] theorem setInputs_initialized (l : List Input) : (setInputs l s).initialized = s.initialized := rfl
@[simp] theorem setInputs_last (l : List Input) : (setInputs l s).last = s.last := rfl
@[simp] theorem setInputs_pressValid (l : List Input) : (setInputs l s).pressValid = s.pressValid := rfl
@[simp] theorem setInputs_fault (l : List Input) : (setInputs l s).fault = s.fault := rfl
@[simp] theorem setInputs_out (l : List Input) : (setInputs l s).out = s.out := rfl
@[simp] theorem setInputs_handlers (l : List Input) : (setInputs l s).handlers = s.handlers := rfl
@[simp] theorem setInputs_invoked (l : List Input) : (setInputs l s).invoked = s.invoked := rfl
@[simp] theorem setInputs_inputs (l : List Input) : (setInputs l s).inputs = l := rfl
@[simp] theorem setInputs_draws (l : List Input) : (setInputs l s).draws = s.draws := rfl

/-! #### resetEdge -/
@[simp] theorem resetEdge_widths (c : Config) : (resetEdge c s).widths = s.widths := rfl
@[simp] theorem resetEdge_cfg (c : Config) : (resetEdge c s).cfg = c := rfl
@[simp] theorem resetEdge_prev (c : Config) : (resetEdge c s).prev = freePrev s.draws := rfl
@[simp] theorem resetEdge_acc (c : Config) : (resetEdge c s).acc = toAccWidth s.widths.accW (freeAcc s.draws) := rfl
@[simp] theorem resetEdge_initialized (c : Config) : (resetEdge c s).initialized = false := rfl
@[simp] theorem resetEdge_last (c : Config) : (resetEdge c s).last =
    toTimeWidth s.widths.timeW (freeLast s.draws) := rfl
@[simp] theorem resetEdge_pressValid (c : Config) : (resetEdge c s).pressValid = false := rfl
@[simp] theorem resetEdge_fault (c : Config) : (resetEdge c s).fault = false := rfl
@[simp] theorem resetEdge_out (c : Config) : (resetEdge c s).out = Outputs.none := rfl
@[simp] theorem resetEdge_handlers (c : Config) : (resetEdge c s).handlers = s.handlers := rfl
@[simp] theorem resetEdge_invoked (c : Config) : (resetEdge c s).invoked = [] := rfl
@[simp] theorem resetEdge_inputs (c : Config) : (resetEdge c s).inputs = s.inputs := rfl
@[simp] theorem resetEdge_draws (c : Config) : (resetEdge c s).draws = s.draws + 1 := rfl

/-! #### subscribe -/
@[simp] theorem subscribe_widths (k : EventKey) (x : Handler) : (subscribe k x s).widths = s.widths := rfl
@[simp] theorem subscribe_cfg (k : EventKey) (x : Handler) : (subscribe k x s).cfg = s.cfg := rfl
@[simp] theorem subscribe_prev (k : EventKey) (x : Handler) : (subscribe k x s).prev = s.prev := rfl
@[simp] theorem subscribe_acc (k : EventKey) (x : Handler) : (subscribe k x s).acc = s.acc := rfl
@[simp] theorem subscribe_initialized (k : EventKey) (x : Handler) : (subscribe k x s).initialized =
    s.initialized := rfl
@[simp] theorem subscribe_last (k : EventKey) (x : Handler) : (subscribe k x s).last = s.last := rfl
@[simp] theorem subscribe_pressValid (k : EventKey) (x : Handler) : (subscribe k x s).pressValid = s.pressValid := rfl
@[simp] theorem subscribe_fault (k : EventKey) (x : Handler) : (subscribe k x s).fault = s.fault := rfl
@[simp] theorem subscribe_out (k : EventKey) (x : Handler) : (subscribe k x s).out = s.out := rfl
@[simp] theorem subscribe_handlers (k : EventKey) (x : Handler) : (subscribe k x s).handlers =
    addHandler k x s.handlers := rfl
@[simp] theorem subscribe_invoked (k : EventKey) (x : Handler) : (subscribe k x s).invoked = [] := rfl
@[simp] theorem subscribe_inputs (k : EventKey) (x : Handler) : (subscribe k x s).inputs = s.inputs := rfl
@[simp] theorem subscribe_draws (k : EventKey) (x : Handler) : (subscribe k x s).draws = s.draws := rfl

/-! #### publish -/
@[simp] theorem publish_widths (k : EventKey) : (publish k s).widths = s.widths := rfl
@[simp] theorem publish_cfg (k : EventKey) : (publish k s).cfg = s.cfg := rfl
@[simp] theorem publish_prev (k : EventKey) : (publish k s).prev = s.prev := rfl
@[simp] theorem publish_acc (k : EventKey) : (publish k s).acc = s.acc := rfl
@[simp] theorem publish_initialized (k : EventKey) : (publish k s).initialized = s.initialized := rfl
@[simp] theorem publish_last (k : EventKey) : (publish k s).last = s.last := rfl
@[simp] theorem publish_pressValid (k : EventKey) : (publish k s).pressValid = s.pressValid := rfl
@[simp] theorem publish_fault (k : EventKey) : (publish k s).fault = s.fault := rfl
@[simp] theorem publish_out (k : EventKey) : (publish k s).out = s.out := rfl
@[simp] theorem publish_handlers (k : EventKey) : (publish k s).handlers = s.handlers := rfl
@[simp] theorem publish_invoked (k : EventKey) : (publish k s).invoked =
    s.invoked ++ (handlersFor k s.handlers).map fun x => (k, x) := rfl
@[simp] theorem publish_inputs (k : EventKey) : (publish k s).inputs = s.inputs := rfl
@[simp] theorem publish_draws (k : EventKey) : (publish k s).draws = s.draws := rfl

end

end Sys2Proof.Machine
end

