-- ==== Sys2Proof/Laws/Ops.lean ====
section
/-! SUPPORT. What each shared operation can do, said once: operands, the decisions of stage 5 and of PRESS, the effect
of an operation, and the outcomes of a step. -/
namespace Sys2Proof.Machine

/-! #### Operands -/

theorem pinState_bits (x : PinState) : pinState (x.getLsbD 1) (x.getLsbD 0) = x := by
  revert x; decide

@[simp] theorem pinState_getElem (x : PinState) : pinState x[1] x[0] = x := pinState_bits x

theorem pinState_eq_ofNat (a b : Bool) : pinState a b = BitVec.ofNat 2 (2 * a.toNat + b.toNat) := by
  revert a b; decide

theorem transitionDelta_cases (p c : PinState) :
    transitionDelta p c = -1 ∨ transitionDelta p c = 0 ∨ transitionDelta p c = 1 := by
  revert p c; decide

theorem direct_cases (v : Bool) {x : Int} (h : x = -1 ∨ x = 0 ∨ x = 1) :
    direct v x = -1 ∨ direct v x = 0 ∨ direct v x = 1 := by
  unfold direct; split <;> omega

theorem direct_not (v : Bool) (x : Int) : direct (!v) x = -direct v x := by
  cases v <;> simp [direct]

/-- Stage 4 moves the count by at most one (R65). -/
theorem stepSum_cases (cur : PinState) (s : State) :
    stepSum cur s = s.acc - 1 ∨ stepSum cur s = s.acc ∨ stepSum cur s = s.acc + 1 := by
  have h := direct_cases s.cfg.invertDirection (transitionDelta_cases s.prev cur)
  unfold stepSum; omega

theorem subModulo_eq_emod (w : Nat) (a b : Nat) :
    (subModulo w a b : Int) = ((a : Int) - (b : Int)) % 2 ^ w := by
  have h : (BitVec.ofNat w a - BitVec.ofNat w b) = BitVec.ofInt w ((a : Int) - (b : Int)) := by
    apply BitVec.eq_of_toInt_eq
    rw [← BitVec.ofInt_natCast, ← BitVec.ofInt_natCast]
    simp only [BitVec.toInt_sub, BitVec.toInt_ofInt, Int.bmod_sub_bmod, Int.sub_bmod_bmod]
  rw [subModulo, h, BitVec.toNat_ofInt, Int.toNat_of_nonneg (Int.emod_nonneg _ (by positivity))]
  simp

theorem toTimeWidth_of_lt {w x : Nat} (h : x < 2 ^ w) : toTimeWidth w x = x := Nat.mod_eq_of_lt h

theorem toTimeWidth_lt (w x : Nat) : toTimeWidth w x < 2 ^ w := Nat.mod_lt _ (by positivity)

theorem timestamp_lt (t : Nat) (s : State) : timestamp t s < 2 ^ s.widths.timeW := toTimeWidth_lt _ _

theorem timestamp_of_lt {t : Nat} {s : State} (h : t < 2 ^ s.widths.timeW) : timestamp t s = t :=
  toTimeWidth_of_lt h

theorem toAccWidth_bounds (w : Nat) (x : Int) :
    -(2 ^ (w - 1) : Int) ≤ toAccWidth w x ∧ toAccWidth w x < 2 ^ (w - 1) :=
  ⟨BitVec.le_toInt _, by
    rcases Nat.eq_zero_or_pos w with rfl | h
    · simp [toAccWidth]
    · exact BitVec.toInt_lt⟩

/-! #### Configuration -/

/-- The legal range, spelled out (R8, R10, R12, R13). -/
theorem configLegal_iff (w : Widths) (c : Config) :
    configLegal w c = true ↔ 2 ≤ w.accW ∧ 1 ≤ w.timeW ∧ 1 ≤ c.stepsPerDetent ∧
      c.stepsPerDetent ≤ 2 ^ (w.accW - 1) - 1 ∧ c.pressDebounceMs ≤ 2 ^ w.timeW - 1 := by
  simp [configLegal, and_assoc]

theorem underConfig_of_legal {s : State} (h : Legal s) (t : State) : underConfig s t = .next t := by
  simp [underConfig, show configLegal s.widths s.cfg = true from h]

theorem underConfig_next_iff {s t u : State} : underConfig s t = .next u ↔ Legal s ∧ t = u := by
  unfold underConfig Legal; split <;> simp_all

theorem underConfig_refused {s : State} (h : ¬Legal s) (t : State) :
    underConfig s t = .refused .illegalConfiguration := by
  simp [underConfig, Bool.not_eq_true _ ▸ h]

/-! #### Decisions -/

theorem detentEvent_clockwise {n : Nat} {x : Int} (h : (n : Int) ≤ x) : detentEvent n x = some .clockwise := by
  simp [detentEvent, h]

theorem detentEvent_counterClockwise {n : Nat} {x : Int} (hn : 1 ≤ n) (h : x ≤ -(n : Int)) :
    detentEvent n x = some .counterClockwise := by
  have : ¬(n : Int) ≤ x := by omega
  simp [detentEvent, h, this]

theorem detentEvent_none {n : Nat} {x : Int} (h : -(n : Int) < x) (h' : x < n) : detentEvent n x = none := by
  have h1 : ¬(n : Int) ≤ x := by omega
  have h2 : ¬x ≤ -(n : Int) := by omega
  simp [detentEvent, h1, h2]

theorem detentEvent_eq_none_iff {n : Nat} {x : Int} : detentEvent n x = none ↔ -(n : Int) < x ∧ x < n := by
  unfold detentEvent; split
  · simp; omega
  · split <;> simp <;> omega

/-- Under inversion the event is the other one (R64). -/
theorem detentEvent_neg {n : Nat} (hn : 1 ≤ n) (x : Int) :
    detentEvent n (-x) = (detentEvent n x).map otherEvent := by
  unfold detentEvent
  repeat' split
  all_goals first | rfl | omega

theorem accAfter_of_none {n : Nat} {x : Int} (h : detentEvent n x = none) : accAfter n x = x := by
  simp [accAfter, h]

theorem accAfter_of_some {n : Nat} {x : Int} {e : DetentEvent} (h : detentEvent n x = some e) :
    accAfter n x = 0 := by
  simp [accAfter, h]

/-- What stage 5 leaves is strictly inside the bound, whatever the sum was (R27). -/
theorem accAfter_bounds {n : Nat} (hn : 1 ≤ n) (x : Int) : -(n : Int) < accAfter n x ∧ accAfter n x < n := by
  cases h : detentEvent n x with
  | none => rw [accAfter_of_none h]; exact detentEvent_eq_none_iff.mp h
  | some e => rw [accAfter_of_some h]; omega

theorem accAfter_neg {n : Nat} (hn : 1 ≤ n) (x : Int) : accAfter n (-x) = -accAfter n x := by
  unfold accAfter; rw [detentEvent_neg hn]; cases detentEvent n x <;> simp

@[simp] theorem shownEvent_driveQ (e : Option DetentEvent) (q : Bool) (s : State) :
    shownEvent (driveQ e q s).out = e := by
  cases e with
  | none => rfl
  | some d => cases d <;> rfl

@[simp] theorem firedEvent_q {i : Instr} (h : portOf i = .q) (o : Outputs) : firedEvent i o = shownEvent o := by
  simp [firedEvent, h]

@[simp] theorem firedEvent_p {i : Instr} (h : portOf i = .p) (o : Outputs) : firedEvent i o = none := by
  simp [firedEvent, h]

/-- The mirror image shows the other event (R64). -/
theorem shownEvent_mirror (s : State) : shownEvent (mirror s).out = (shownEvent s.out).map otherEvent := by
  cases hv : s.out.evValid <;> cases hd : s.out.evDir <;> simp [shownEvent, mirror, hv, hd, otherEvent]

theorem pressAccepted_first {s : State} (h : s.pressValid = false) (t : Nat) : pressAccepted t s = true := by
  simp [pressAccepted, h]

theorem pressAccepted_later {s : State} (h : s.pressValid = true) (t : Nat) :
    pressAccepted t s = true ↔ s.cfg.pressDebounceMs < subModulo s.widths.timeW t s.last := by
  simp [pressAccepted, h]

/-! #### The effect of an operation -/

/-- What an operation makes of a state in a legal configuration. -/
def effect (i : Instr) (s : State) : State :=
  match i with
  | .qidle => driveQ none false s
  | .step a b => if s.initialized then decoderStep (pinState a b) s else raiseNotInitialized s
  | .init a b => driveQ none false (setInitialized (writeDecoder (pinState a b) 0 s))
  | .pidle => driveP false s
  | .press t => pressEdge (timestamp t s) s

/-- Every meaning is its effect under the configuration check. -/
theorem exec_eq_underConfig (i : Instr) (s : State) : exec i s = underConfig s (effect i s) := by
  cases i <;> rfl

theorem exec_of_legal {s : State} (h : Legal s) (i : Instr) : exec i s = .next (effect i s) := by
  rw [exec_eq_underConfig, underConfig_of_legal h]

theorem exec_next_iff {i : Instr} {s t : State} : exec i s = .next t ↔ Legal s ∧ effect i s = t := by
  rw [exec_eq_underConfig, underConfig_next_iff]

theorem exec_refused {s : State} (h : ¬Legal s) (i : Instr) : exec i s = .refused .illegalConfiguration := by
  rw [exec_eq_underConfig, underConfig_refused h]

theorem effect_step_initialized {s : State} (h : s.initialized = true) (a b : Bool) :
    effect (.step a b) s = decoderStep (pinState a b) s := by
  simp [effect, h]

theorem effect_step_uninitialized {s : State} (h : s.initialized = false) (a b : Bool) :
    effect (.step a b) s = raiseNotInitialized s := by
  simp [effect, h]

theorem effect_press_accepted {t : Nat} {s : State} (h : pressAccepted (timestamp t s) s = true) :
    effect (.press t) s = driveP true (writeLast (timestamp t s) s) := by
  simp [effect, pressEdge, h]

theorem effect_press_rejected {t : Nat} {s : State} (h : ¬pressAccepted (timestamp t s) s = true) :
    effect (.press t) s = driveP false s := by
  simp [effect, pressEdge, h]

/-- The acceptance of a press rests on the debouncer, the interval and TIME_W alone (R84). -/
theorem pressAccepted_congr {s u : State} (hv : u.pressValid = s.pressValid)
    (hl : s.pressValid = true → u.last = s.last) (hc : u.cfg = s.cfg) (hw : u.widths = s.widths) (t : Nat) :
    pressAccepted t u = pressAccepted t s ∧ timestamp t u = timestamp t s := by
  unfold pressAccepted timestamp
  rw [hv, hc, hw]
  by_cases h : s.pressValid = true
  · simp [hl h]
  · simp [h]

/-- No operation changes a width, a constant, the environment or the fault pin. -/
theorem effect_frame (i : Instr) (s : State) :
    (effect i s).widths = s.widths ∧ (effect i s).cfg = s.cfg ∧ (effect i s).handlers = s.handlers ∧
    (effect i s).invoked = s.invoked ∧ (effect i s).inputs = s.inputs ∧ (effect i s).draws = s.draws ∧
    (effect i s).out.fault = s.out.fault := by
  cases i <;> simp only [effect, decoderStep, raiseNotInitialized, pressEdge] <;> (try split) <;> simp

theorem legal_effect {s : State} (h : Legal s) (i : Instr) : Legal (effect i s) := by
  have hf := effect_frame i s
  simp only [Legal, hf.1, hf.2.1]
  exact h

theorem legal_stepsPerDetent {s : State} (h : Legal s) : 1 ≤ s.cfg.stepsPerDetent :=
  ((configLegal_iff _ _).mp h).2.2.1

/-- What an operation of the Q port leaves of the debouncer and of the P port's pin. -/
theorem effect_frame_q {i : Instr} (h : portOf i = .q) (s : State) :
    (effect i s).last = s.last ∧ (effect i s).pressValid = s.pressValid ∧
    (effect i s).out.pressEv = s.out.pressEv := by
  cases i <;> simp only [effect, decoderStep, raiseNotInitialized] <;> (try split) <;> simp_all [portOf]

/-- What an operation of the P port leaves of the decoder, the flags and the Q port's pins. -/
theorem effect_frame_p {i : Instr} (h : portOf i = .p) (s : State) :
    (effect i s).prev = s.prev ∧ (effect i s).acc = s.acc ∧ (effect i s).initialized = s.initialized ∧
    (effect i s).fault = s.fault ∧ (effect i s).out.evValid = s.out.evValid ∧
    (effect i s).out.evDir = s.out.evDir ∧ (effect i s).out.qErr = s.out.qErr := by
  cases i <;> simp only [effect, pressEdge] <;> (try split) <;> simp_all [portOf]

/-! #### Events and steps -/

theorem publishDetent_eq (s : State) : publishDetent s = { s with invoked := (publishDetent s).invoked } := by
  unfold publishDetent; split <;> rfl

theorem publishPress_eq (s : State) : publishPress s = { s with invoked := (publishPress s).invoked } := by
  unfold publishPress; split <;> rfl

/-- Publishing changes nothing but the record of the handlers run. -/
theorem publishOutputs_eq (b : Bool) (s : State) :
    publishOutputs b s = { s with invoked := (publishOutputs b s).invoked } := by
  unfold publishOutputs; split
  · rw [publishDetent_eq, publishPress_eq s]
  · rw [publishPress_eq, publishDetent_eq s]

theorem andThen_next_iff {r : Result} {f : State → Result} {t : State} :
    andThen r f = .next t ↔ ∃ s, r = .next s ∧ f s = .next t := by
  cases r <;> simp [andThen]

theorem nextState_eq_some_iff {r : Result} {t : State} : nextState r = some t ↔ r = .next t := by
  cases r <;> simp [nextState]

theorem readPort_next_iff {port : Port} {w : Nat} {s t : State} {f : Instr → Result} :
    readPort port w s f = .next t ↔ ∃ i, decode s.widths.timeW port w = .ok i ∧ f i = .next t := by
  unfold readPort; split <;> simp_all

theorem decode_port {timeW : Nat} {port : Port} {w : Nat} {i : Instr}
    (h : decode timeW port w = .ok i) : portOf i = port := by
  cases port <;> simp only [decode] at h <;> split at h <;> simp only [Except.ok.injEq, reduceCtorEq] at h <;>
    subst h
  · unfold decodeQ; repeat' split
    all_goals rfl
  · unfold decodeP; split <;> rfl

/-- Everything an operating cycle that completes can do. -/
theorem operatingCycle_next {c : Cycle} {s t : State} (h : operatingCycle c s = .next t) :
    ∃ i j, portOf i = .q ∧ portOf j = .p ∧ decode s.widths.timeW .q c.q = .ok i ∧
      decode s.widths.timeW .p c.p = .ok j ∧ c.cfg = s.cfg ∧ Legal s ∧
      t = publishOutputs c.pressFirst (effect j (effect i (beginCycle s))) := by
  unfold operatingCycle at h
  split at h
  · rename_i hc
    obtain ⟨i, hi, h⟩ := readPort_next_iff.mp h
    obtain ⟨j, hj, h⟩ := readPort_next_iff.mp h
    obtain ⟨v, hv, h⟩ := andThen_next_iff.mp h
    obtain ⟨u, hu, hv⟩ := andThen_next_iff.mp hv
    obtain ⟨hl, rfl⟩ := exec_next_iff.mp hu
    obtain ⟨-, rfl⟩ := exec_next_iff.mp hv
    injection h with h
    exact ⟨i, j, decode_port hi, decode_port hj, hi, hj, hc, hl, h.symm⟩
  · exact absurd h (by simp)

/-- Everything a step that completes can do: a reset edge, an operating cycle, or a Subscribe call. -/
theorem step_cases {s t : State} (h : step s = .next t) :
    (∃ c rest, s.inputs = .cycle c :: rest ∧ c.rst = true ∧ t = resetEdge c.cfg (setInputs rest s)) ∨
    (∃ c rest, s.inputs = .cycle c :: rest ∧ c.rst = false ∧ operatingCycle c (setInputs rest s) = .next t) ∨
    (s.inputs = [] ∧ operatingCycle (idleCycle s.cfg) s = .next t) ∨
    (∃ k x rest, s.inputs = .subscribe k x :: rest ∧ t = subscribe k x (setInputs rest s)) := by
  unfold step advance at h
  split at h
  · rename_i hs
    exact .inr (.inr (.inl ⟨hs, by simpa [clockCycle, idleCycle] using h⟩))
  · rename_i c rest hs
    unfold clockCycle at h
    split at h
    · rename_i hr
      exact .inl ⟨c, rest, hs, hr, by injection h with h; exact h.symm⟩
    · rename_i hr
      exact .inr (.inl ⟨c, rest, hs, by simpa using hr, h⟩)
  · rename_i k x rest hs
    exact .inr (.inr (.inr ⟨k, x, rest, hs, by injection h with h; exact h.symm⟩))

end Sys2Proof.Machine
end

