-- ==== Sys2Proof/Laws/PerInstr.lean ====
section
/-! SUPPORT. The family EncodeFits, per instruction: the word of a well-formed operation fits the pins of its port. -/
namespace Sys2Proof.Laws.EncodeFits

/-- The encoding of a well-formed operation is a word of its port (R48, R50). -/
def Statement (i : Instr) : Prop :=
  ∀ timeW : Nat, wellFormed timeW i = true → encode timeW i < 2 ^ portWidth timeW (portOf i)

theorem qidle : Statement .qidle := by intro timeW _; simp [encode, portOf, portWidth]

theorem step (a b : Bool) : Statement (.step a b) := by
  intro timeW _; cases a <;> cases b <;> simp [encode, portOf, portWidth, bit]

theorem init (a b : Bool) : Statement (.init a b) := by
  intro timeW _; cases a <;> cases b <;> simp [encode, portOf, portWidth, bit]

theorem pidle : Statement .pidle := by intro timeW _; simp [encode, portOf, portWidth]

theorem press (t : Nat) : Statement (.press t) := by
  intro timeW h
  have ht : t < 2 ^ timeW := by simpa [wellFormed] using h
  simp only [encode, portOf, portWidth, pow_succ]
  omega

end Sys2Proof.Laws.EncodeFits
end

