-- ==== Sys2Proof/Machine/Notation.lean ====
section
/-! DEFINITION. The textual notation of traces (R56, R57): a line of characters read as the cycles it stands for. -/
namespace Sys2Proof.Machine

/-- A comment starts with `#` and runs to the end of the line (R56). -/
def withoutComment (line : List Char) : List Char := line.takeWhile (· != '#')

/-- The pieces between the characters that `sep` accepts, the empty ones among them. -/
def pieces (sep : Char → Bool) : List Char → List (List Char)
  | [] => [[]]
  | c :: cs =>
    if sep c then [] :: pieces sep cs
    else
      match pieces sep cs with
      | [] => [[c]]
      | p :: ps => (c :: p) :: ps

/-- The words of a text, separated by blanks. -/
def wordsOf (text : List Char) : List (List Char) := (pieces (· == ' ') text).filter (!·.isEmpty)

/-- The value of a digit in a base. -/
def digitValue (base : Nat) (c : Char) : Option Nat :=
  let n := c.toNat
  let v :=
    if 48 ≤ n ∧ n ≤ 57 then n - 48
    else if 97 ≤ n ∧ n ≤ 102 then n - 87
    else if 65 ≤ n ∧ n ≤ 70 then n - 55
    else base
  if v < base then some v else none

/-- The digits after a value already read. -/
def readDigits (base : Nat) : List Char → Nat → Option Nat
  | [], acc => some acc
  | c :: cs, acc =>
    match digitValue base c with
    | some v => readDigits base cs (base * acc + v)
    | none => none

/-- An unsigned number, decimal or hexadecimal with `0x` (R56). -/
def readNumber (text : List Char) : Option Nat :=
  match text with
  | [] => none
  | '0' :: 'x' :: c :: cs => readDigits 16 (c :: cs) 0
  | c :: cs => readDigits 10 (c :: cs) 0

/-- A sample bit, `0` or `1` (R56). -/
def readBit (c : Char) : Option Bool :=
  match c with
  | '0' => some false
  | '1' => some true
  | _ => none

/-- The two sample bits, written apart or together: `STEP 01` means `STEP 0 1` (R56). -/
def readSamples (args : List (List Char)) : Option (Bool × Bool) :=
  match args.flatten, decide (args.length ≤ 2) with
  | [a, b], true =>
    match readBit a, readBit b with
    | some x, some y => some (x, y)
    | _, _ => none
  | _, _ => none

/-- A Q operation (R56). -/
def readQ (ws : List (List Char)) : Option Instr :=
  match ws with
  | [['Q', 'I', 'D', 'L', 'E']] => some .qidle
  | ['S', 'T', 'E', 'P'] :: args => (readSamples args).map fun x => .step x.1 x.2
  | ['I', 'N', 'I', 'T'] :: args => (readSamples args).map fun x => .init x.1 x.2
  | _ => none

/-- A P operation, its number below `2^TIME_W` (R56). -/
def readP (timeW : Nat) (ws : List (List Char)) : Option Instr :=
  match ws with
  | [['P', 'I', 'D', 'L', 'E']] => some .pidle
  | [['P', 'R', 'E', 'S', 'S'], t] =>
    match readNumber t with
    | some n => if n < 2 ^ timeW then some (.press n) else none
    | none => none
  | _ => none

/-- A list of two-bit states separated by commas (R57). -/
def readStates (text : List Char) : Option (List PinState) :=
  (pieces (· == ',') text).mapM fun p => (readSamples [p]).map fun x => pinState x.1 x.2

/-- A pseudo-operation (R57); `CW` and `CCW` need the known `prev`. -/
def readPseudo (w : Widths) (cfg : Config) (prev : PinState) (ws : List (List Char)) : Option (List Input) :=
  match ws with
  | [['S', 'E', 'Q'], states] =>
    match readStates states with
    | some (x :: xs) => some (pseudoSeq w cfg x xs)
    | _ => none
  | [['S', 'T', 'E', 'P', 'S'], states] => (readStates states).map (pseudoSteps w cfg)
  | [['W', 'A', 'I', 'T'], n] => (readNumber n).map (pseudoWait cfg)
  | [['R', 'E', 'S', 'E', 'T']] => some (pseudoReset cfg)
  | [['C', 'W']] => some (pseudoCw w cfg prev)
  | [['C', 'C', 'W']] => some (pseudoCcw w cfg prev)
  | _ => none

/-- A line with one operation: the other port has its idle operation (R56). -/
def readSingle (w : Widths) (cfg : Config) (prev : PinState) (ws : List (List Char)) : Option (List Input) :=
  match readQ ws with
  | some q => some [qLine w cfg q]
  | none =>
    match readP w.timeW ws with
    | some p => some [pLine w cfg p]
    | none => readPseudo w cfg prev ws

/-- A line of a trace as the cycles it stands for (R56, R57); a line of blanks or of a comment alone stands for none
(log entry 23). The text does not give DISPATCH_ORDER (R95), so a line of two operations takes it from the argument
`pressFirst` (log entry 16). -/
def readLine (w : Widths) (cfg : Config) (prev : PinState) (pressFirst : Bool) (line : List Char) : Option (List Input) :=
  match (pieces (· == ';') (withoutComment line)).map wordsOf with
  | [[]] => some []
  | [ws] => readSingle w cfg prev ws
  | [qs, ps] =>
    match readQ qs, readP w.timeW ps with
    | some q, some p => some [traceLine w cfg pressFirst q p]
    | _, _ => none
  | _ => none

end Sys2Proof.Machine
end

