-- ==== Sys2Proof/Tests/Slice0.lean ====
section
/-! SUPPORT. The model's own tests: words and results from spec/95_test_vectors.md and the rules' examples, ill-formed
terms, and a witness for the hypotheses of each statement. -/
namespace Sys2Proof.Tests.Slice0

open Sys2Proof.Machine

/-- An initialized decoder in the default configuration. -/
def decoder (prev : PinState) (acc : Int) : State :=
  { State.reset with initialized := true, prev := prev, acc := acc }

/-- The same with other constants. -/
def decoderWith (steps : Nat) (invert : Bool) (prev : PinState) (acc : Int) : State :=
  { decoder prev acc with cfg := { stepsPerDetent := steps, invertDirection := invert, pressDebounceMs := 0 } }

/-- A debouncer that has accepted a press. -/
def debouncer (interval last : Nat) : State :=
  { State.reset with
    pressValid := true
    last := last
    cfg := { stepsPerDetent := 4, invertDirection := false, pressDebounceMs := interval } }

/-- The registers and pins of the decoder after an operation. -/
def seenQ (r : Result) : Option (PinState × Int × Bool × Bool × Bool) :=
  (nextState r).map fun t => (t.prev, t.acc, t.out.evValid, t.out.evDir, t.out.qErr)

/-- The registers and the pin of the debouncer after an operation. -/
def seenP (r : Result) : Option (Nat × Bool × Bool) :=
  (nextState r).map fun t => (t.last, t.pressValid, t.out.pressEv)

/-! #### WellFormed -/

/-- A timestamp of 33 bits is no operand of PRESS at TIME_W = 32. -/
theorem test_press_too_wide_is_ill_formed : wellFormed 32 (.press 0x100000000) = false := by decide

theorem test_press_widest_is_well_formed : wellFormed 32 (.press 0xFFFFFFFF) = true := by decide

/-! #### Decode: words written out from R49, R51 and vector Q12 -/

theorem test_decode_qidle : decode 32 .q 0b0101 = .ok .qidle := by decide

theorem test_decode_step : decode 32 .q 0b1001 = .ok (.step false true) := by decide

theorem test_decode_init : decode 32 .q 0b1110 = .ok (.init true false) := by decide

/-- Vector P8. -/
theorem test_decode_pidle : decode 32 .p 0x0FFFFFFFF = .ok .pidle := by decide

/-- R51: `PRESS 40` is 0x100000028. -/
theorem test_decode_press : decode 32 .p 0x100000028 = .ok (.press 40) := by decide

theorem test_decode_too_wide_q : decode 32 .q 0b10000 = .error .qWordTooWide := by decide

theorem test_decode_too_wide_p : decode 32 .p 0x200000000 = .error .pWordTooWide := by decide

/-- R51 at another width: `PRESS 5` at TIME_W = 3 is `2^3 + 5`. -/
theorem test_encode_press_narrow : encode 3 (.press 5) = 0b1101 := by decide

theorem test_table_word_q : decodeTableWord 8 0xB = some (.step true true) := by decide

theorem test_table_word_p : decodeTableWord 40 0x100000000 = some (.press 0) := by decide

/-! #### The operations -/

/-- R60, example: the fourth step of a clockwise click. -/
theorem test_step_fires_clockwise :
    seenQ (exec (.step false false) (decoder 0b10#2 3)) = some (0b00#2, 0, true, false, false) := by decide

/-- Vector Q11, mirror run: the largest STEPS_PER_DETENT, sum = -127. -/
theorem test_step_fires_at_minus_127 :
    seenQ (exec (.step false false) (decoderWith 127 false 0b01#2 (-126))) =
      some (0b00#2, 0, true, true, false) := by decide

/-- R58, R59 and vector Q10 cycle 7: INIT discards the partial count. -/
theorem test_init_discards_count :
    seenQ (exec (.init true false) (decoder 0b10#2 2)) = some (0b10#2, 0, false, false, false) := by decide

/-- Vector Q10 cycle 3: INIT after a fault works and `fault` stays 1. -/
theorem test_init_keeps_fault :
    (nextState (exec (.init false true) { State.reset with fault := true })).map
      (fun t => (t.initialized, t.fault)) = some (true, true) := by decide

/-- R75, example. -/
theorem test_qidle_keeps_registers :
    seenQ (exec .qidle (decoder 0b01#2 2)) = some (0b01#2, 2, false, false, false) := by decide

/-- R87, example. -/
theorem test_pidle_keeps_registers : seenP (exec .pidle (debouncer 30 40)) = some (40, true, false) := by decide

/-- Vector P1: 30 ms is rejected. -/
theorem test_press_boundary_rejected :
    seenP (exec (.press 130) (debouncer 30 100)) = some (100, true, false) := by decide

/-- Vector P4: 31 ms across the wrap is accepted. -/
theorem test_press_wraps :
    seenP (exec (.press 0x0000000F) (debouncer 30 0xFFFFFFF0)) = some (0x0000000F, true, true) := by decide

/-! #### Steps -/

/-- The state after reset with one trace line to come. -/
def oneLine (s : State) (q p : Nat) (pressFirst : Bool) : State :=
  { s with inputs := [.cycle { rst := false, q := q, p := p, cfg := s.cfg, pressFirst := pressFirst }] }

/-- Program 3, cycle 1: the STEP faults and the PRESS of the same cycle is accepted. -/
theorem test_fault_does_not_cancel_press :
    (nextState (step (oneLine State.reset 0x9 0x100000005 false))).map
      (fun t => (t.out, t.fault, t.last, t.pressValid)) =
    some ({ evValid := false, evDir := false, pressEv := true, qErr := true, fault := false }, true, 5, true) := by
  decide

/-- Program 2, cycle 7: both events fire in one cycle; the environment chose to publish the press first. -/
theorem test_coinciding_events :
    (nextState (step (oneLine
      { decoder 0b01#2 3 with
        pressValid := true
        last := 500
        handlers := { clockwise := [1, 2], counterClockwise := [], pressed := [3] } } 0xB 0x100000213 true))).map
      (fun t => (t.acc, t.last, t.invoked)) =
    some (0, 531, [(.pressed, 3), (.clockwise, 1), (.clockwise, 2)]) := by decide

/-- A word placed by withFetchWord runs in the very next step: INIT 11 right after reset. -/
theorem test_with_fetch_word_q :
    (nextState (step (State.reset.withFetchWord 8 0xF))).map (fun t => (t.initialized, t.prev, t.inputs)) =
      some (true, 0b11#2, []) := by decide

theorem test_with_fetch_word_p :
    seenP (step (State.reset.withFetchWord 40 0x100000007)) = some (7, true, true) := by decide

/-- Vector Q10, cycle 12: reset clears the flags; its words are ignored. -/
theorem test_reset_cycle_clears :
    (nextState (step { decoder 0b10#2 0 with
      fault := true
      inputs := [.cycle { rst := true, q := 0xF, p := 0, cfg := defaultConfig, pressFirst := false }] })).map
      (fun t => (t.initialized, t.fault, t.pressValid, t.out)) = some (false, false, false, Outputs.none) := by
  decide

/-- U5: a configuration with STEPS_PER_DETENT = 0 is refused. -/
theorem test_zero_steps_refused :
    exec (.step false false) (decoderWith 0 false 0b00#2 0) = .refused .illegalConfiguration := rfl

/-- R55, R106: the event of a STEP is counted once, also when a P operation follows it. -/
theorem test_event_counted_once :
    (runOps [.step false false, .pidle, .press 7] (decoder 0b10#2 3)).map (fun r => r.2) = some [.clockwise] := by
  decide

/-- R57: `SEQ 00,01` presents the words 0xC and 0x9. -/
theorem test_pseudo_seq :
    pseudoSeq defaultWidths defaultConfig 0b00#2 [0b01#2] =
      [.cycle { idleCycle defaultConfig with q := 0xC }, .cycle { idleCycle defaultConfig with q := 0x9 }] := by
  decide

/-- Program 2, cycle 1, as it is written: `INIT 11 ; PRESS 500`, with a comment. -/
theorem test_read_line :
    readLine defaultWidths defaultConfig 0b00#2 true
      ['I', 'N', 'I', 'T', ' ', '1', '1', ' ', ';', ' ', 'P', 'R', 'E', 'S', 'S', ' ', '5', '0', '0', ' ', '#', ';'] =
      some [.cycle { idleCycle defaultConfig with q := 0xF, p := 0x1000001F4, pressFirst := true }] := by decide

/-- R56: the sample bits written apart, and a hexadecimal timestamp. -/
theorem test_read_single_operations :
    readLine defaultWidths defaultConfig 0b00#2 false ['S', 'T', 'E', 'P', ' ', '1', ' ', '0'] =
      some [.cycle { idleCycle defaultConfig with q := 0xA }] ∧
    readLine defaultWidths defaultConfig 0b00#2 false ['P', 'R', 'E', 'S', 'S', ' ', '0', 'x', '2', '8'] =
      some [.cycle { idleCycle defaultConfig with p := 0x100000028 }] := by decide

/-- R57: `STEPS 01,11` is two cycles. -/
theorem test_read_pseudo :
    readLine defaultWidths defaultConfig 0b00#2 false
      ['S', 'T', 'E', 'P', 'S', ' ', '0', '1', ',', '1', '1'] =
      some [.cycle { idleCycle defaultConfig with q := 0x9 }, .cycle { idleCycle defaultConfig with q := 0xB }] := by
  decide

/-- R57: `CW` from 11 goes through 10, 00, 01 and back to 11. -/
theorem test_walk_cw : walk grayNext 4 0b11#2 = [0b10#2, 0b00#2, 0b01#2, 0b11#2] := by decide

/-- R57: `CCW` from 00 goes through 10, 11, 01 and back to 00. -/
theorem test_walk_ccw : walk grayBack 4 0b00#2 = [0b10#2, 0b11#2, 0b01#2, 0b00#2] := by decide

/-! #### Witnesses: states and operands that meet the hypotheses of each statement -/

theorem witness_QuadratureWordsDecode :
    decode 32 .q 0x7 = .ok .qidle ∧ decode 32 .q 0x8 = .ok (.step false false) ∧
    decode 32 .q 0xC = .ok (.init false false) ∧ decode 32 .q 0xF = .ok (.init true true) := by decide

theorem witness_PressWordsDecode : (0 : Nat) < 2 ^ 32 ∧ 0xFFFFFFFF < 2 ^ 32 ∧ (1 : Nat) < 2 ^ 1 := by decide

theorem witness_EveryWordSelectsExactlyOneRow :
    15 < 2 ^ portWidth 32 .q ∧ 0x1FFFFFFFF < 2 ^ portWidth 32 .p := by decide

theorem witness_IdlePayloadBitsIgnored : (7 : Nat) < 2 ^ 3 ∧ 0xFFFFFFFF < 2 ^ 32 := by decide

theorem witness_DecodeEncodeAgree : wellFormed 32 (.press 0xFFFFFFFF) = true ∧ wellFormed 1 (.press 1) = true := by
  decide

/-- Also the smallest and the largest word of each port with the valid bit set. -/
theorem witness_EncodeDecodeAgree :
    decode 32 .q 0x7 = .ok .qidle ∧ decode 32 .p 0xFFFFFFFF = .ok .pidle ∧
    (decode 32 .q 0x8 = .ok (.step false false) ∧ 8 ≤ 0x8) ∧ (decode 32 .q 0xF = .ok (.init true true) ∧ 8 ≤ 0xF) ∧
    (decode 32 .p 0x100000000 = .ok (.press 0) ∧ 2 ^ 32 ≤ 0x100000000) ∧
    (decode 32 .p 0x1FFFFFFFF = .ok (.press 0xFFFFFFFF) ∧ 2 ^ 32 ≤ 0x1FFFFFFFF) := by decide

/-- Also of QidleChangesNothing, PidleChangesNothing, PressNeedsNoInit: a legal state, at both ends of the range of
STEPS_PER_DETENT and of the interval. -/
theorem witness_InitCapturesSamples :
    Legal State.reset ∧ Legal (decoderWith 127 true 0b11#2 126) ∧ Legal (decoderWith 1 false 0b00#2 0) ∧
    Legal (debouncer 0xFFFFFFFF 0) := by decide

theorem witness_StepBeforeInitRaises : Legal State.reset ∧ State.reset.initialized = false := by decide

/-- Each of the three outcomes at the value where it begins: sums 4, -4, 3 and -3 with STEPS_PER_DETENT = 4. -/
theorem witness_StepCountsAndFires :
    (Legal (decoder 0b00#2 3) ∧ (decoder 0b00#2 3).initialized = true) ∧
    stepSum 0b01#2 (decoder 0b00#2 3) = 4 ∧ stepSum 0b10#2 (decoder 0b00#2 (-3)) = -4 ∧
    stepSum 0b00#2 (decoder 0b00#2 3) = 3 ∧ stepSum 0b00#2 (decoder 0b00#2 (-3)) = -3 := by decide

theorem witness_FaultStaysAfterRecovery : Legal State.reset ∧ State.reset.initialized = false := by decide

theorem witness_IllegalTransitionIsNoMotion :
    Legal (decoder 0b01#2 3) ∧ (decoder 0b01#2 3).initialized = true ∧ AccBound (decoder 0b01#2 3) ∧
    (decoder 0b01#2 3).prev ^^^ BitVec.ofNat 2 (2 * true.toNat + false.toNat) = 0b11#2 := by decide

theorem witness_UnchangedSampleIsNoMotion :
    Legal (decoder 0b01#2 (-3)) ∧ (decoder 0b01#2 (-3)).initialized = true ∧ AccBound (decoder 0b01#2 (-3)) := by
  decide

theorem witness_ThresholdReachedExactly :
    (AccBound (decoder 0b00#2 3) ∧ ∃ t, exec (.step false true) (decoder 0b00#2 3) = .next t ∧
      t.out.evValid = true ∧ t.out.evDir = false) ∧
    (AccBound (decoder 0b00#2 (-3)) ∧ ∃ t, exec (.step true false) (decoder 0b00#2 (-3)) = .next t ∧
      t.out.evValid = true ∧ t.out.evDir = true) :=
  ⟨⟨by decide, _, rfl, by decide⟩, by decide, _, rfl, by decide⟩

theorem witness_OneStepPerDetentAlwaysFires :
    Legal (decoderWith 1 true 0b10#2 0) ∧ (decoderWith 1 true 0b10#2 0).initialized = true ∧
    (decoderWith 1 true 0b10#2 0).cfg.stepsPerDetent = 1 ∧ (decoderWith 1 true 0b10#2 0).acc = 0 := by decide

theorem witness_QuarterStepRunFiresEachDetent :
    Legal (decoderWith 2 true 0b11#2 0) ∧ (decoderWith 2 true 0b11#2 0).initialized = true ∧
    (decoderWith 2 true 0b11#2 0).acc = 0 := by decide

theorem witness_BackAndForthCancels :
    Legal (decoder 0b00#2 2) ∧ (decoder 0b00#2 2).initialized = true ∧ AccBound (decoder 0b00#2 2) ∧
    ∃ t, exec (.step false true) (decoder 0b00#2 2) = .next t ∧ t.out.evValid = false :=
  ⟨by decide, by decide, by decide, _, rfl, by decide⟩

theorem witness_AccumulatorStaysBounded :
    ((decoder 0b00#2 3).initialized = true → AccBound (decoder 0b00#2 3)) ∧
    ∃ t, exec (.step false false) (decoder 0b00#2 3) = .next t ∧ t.initialized = true :=
  ⟨by decide, _, rfl, by decide⟩

theorem witness_AtMostOneQuadratureResult :
    portOf (.step false true) = .q ∧ ∃ t, exec (.step false true) State.reset = .next t ∧ t.out.qErr = true :=
  ⟨rfl, _, rfl, by decide⟩

theorem witness_FirstPressAccepted :
    Legal State.reset ∧ State.reset.pressValid = false ∧ 0xFFFFFFFF < 2 ^ State.reset.widths.timeW := by decide

/-- Both outcomes at the value where they meet: differences 30 and 31. -/
theorem witness_PressFiltersByInterval :
    Legal (debouncer 30 100) ∧ (debouncer 30 100).pressValid = true ∧
    131 < 2 ^ (debouncer 30 100).widths.timeW ∧
    ((130 : Int) - ((debouncer 30 100).last : Int)) % 2 ^ (debouncer 30 100).widths.timeW = 30 ∧
    ((131 : Int) - ((debouncer 30 100).last : Int)) % 2 ^ (debouncer 30 100).widths.timeW = 31 := by decide

/-- The clauses of TimestampDifferenceIsModular: equal, just later, just earlier, and a wrapped clock. -/
theorem witness_TimestampDifferenceIsModular :
    (debouncer 30 100).pressValid = true ∧ (debouncer 30 100).last < 2 ^ (debouncer 30 100).widths.timeW ∧
    (∃ u, exec (.press 100) (debouncer 30 100) = .next u) ∧ (∃ u, exec (.press 101) (debouncer 30 100) = .next u) ∧
    (∃ u, exec (.press 99) (debouncer 30 100) = .next u) ∧
    (0x0000000F = 0x10000000F % 2 ^ 32 ∧ 0xFFFFFFF0 = 0xFFFFFFF0 % 2 ^ 32 ∧ 0xFFFFFFF0 ≤ 0x10000000F ∧
      0x10000000F - 0xFFFFFFF0 < 2 ^ 32) :=
  ⟨rfl, by decide, ⟨_, rfl⟩, ⟨_, rfl⟩, ⟨_, rfl⟩, by decide⟩

theorem witness_ExtremeDebounceIntervals :
    (Legal (debouncer 0 5) ∧ (debouncer 0 5).pressValid = true ∧ (debouncer 0 5).cfg.pressDebounceMs = 0) ∧
    (Legal (debouncer 0xFFFFFFFF 10) ∧
      (debouncer 0xFFFFFFFF 10).cfg.pressDebounceMs = 2 ^ (debouncer 0xFFFFFFFF 10).widths.timeW - 1) ∧
    9 < 2 ^ (debouncer 0xFFFFFFFF 10).widths.timeW ∧
    (debouncer 0xFFFFFFFF 10).last < 2 ^ (debouncer 0xFFFFFFFF 10).widths.timeW := by decide

/-- Vector V5 as a stream of true times. -/
theorem witness_AcceptedPressesAreSpaced :
    State.reset.pressValid = false ∧ [0, 10, 40].Pairwise (fun x y => x ≤ y) ∧
    acceptedTimes [0, 10, 40] State.reset = [0, 40] := by decide

theorem witness_PortOperationsCommute : portOf (.step true true) = .q ∧ portOf (.press 5) = .p := by decide

theorem witness_QuadratureOperationsFrame :
    (∃ t, exec .qidle State.reset = .next t) ∧ (∃ t, exec (.step true false) State.reset = .next t) ∧
    (∃ t, exec (.step true false) (decoder 0b00#2 0) = .next t) ∧ (∃ t, exec (.init true true) State.reset = .next t) :=
  ⟨⟨_, rfl⟩, ⟨_, rfl⟩, ⟨_, rfl⟩, _, rfl⟩

theorem witness_PressOperationsFrame :
    (∃ t, exec .pidle State.reset = .next t) ∧
    ∃ t, exec (.press 130) (debouncer 30 100) = .next t ∧ t.out.pressEv = false :=
  ⟨⟨_, rfl⟩, _, rfl, by decide⟩

theorem witness_FlagsChangeOnlyAsSpecified : ∃ t, exec (.step true false) State.reset = .next t ∧ t.fault = true :=
  ⟨_, rfl, by decide⟩

theorem witness_IllegalConfigurationRefused :
    (decoderWith 0 false 0b00#2 0).cfg.stepsPerDetent = 0 ∧
    2 ^ ((decoderWith 128 false 0b00#2 0).widths.accW - 1) - 1 <
      (decoderWith 128 false 0b00#2 0).cfg.stepsPerDetent := by decide

/-- Also of ConfigurationIsHeld, first clause, with other pins. -/
theorem witness_StepRunsDecodedOperations :
    (oneLine State.reset 0x9 0x100000005 false).inputs =
      .cycle { rst := false, q := 0x9, p := 0x100000005, cfg := defaultConfig, pressFirst := false } :: [] ∧
    defaultConfig = (oneLine State.reset 0x9 0x100000005 false).cfg ∧
    decode 32 .q 0x9 = .ok (.step false true) ∧ decode 32 .p 0x100000005 = .ok (.press 5) := by decide

theorem witness_TraceLinePerformsBoth :
    portOf (.init true true) = .q ∧ portOf (.press 500) = .p ∧ wellFormed 32 (.init true true) = true ∧
    wellFormed 32 (.press 500) = true := by decide

theorem witness_ResetCycleClearsFlagsAndOutputs :
    ∃ c : Cycle, ({ State.reset with inputs := pseudoReset defaultConfig } : State).inputs = .cycle c :: [] ∧
      c.rst = true := ⟨_, rfl, rfl⟩

theorem witness_NothingPresentedChangesNothing : Legal State.reset ∧ State.reset.inputs = [] := by decide

/-- Pins that change with rst = 0, and pins that are held. -/
theorem witness_ConfigurationIsHeld :
    (({ oneLine State.reset 0 0 false with
        cfg := { stepsPerDetent := 3, invertDirection := false, pressDebounceMs := 30 } } : State).cfg ≠
      defaultConfig) ∧
    ∃ t, step (oneLine State.reset 0 0 false) = .next t :=
  ⟨by decide, _, nextState_eq_some_iff.mp rfl⟩

theorem witness_SubscribeAppends :
    ({ State.reset with inputs := [onTurned .clockwise 7] } : State).inputs = .subscribe .clockwise 7 :: [] ∧
    EventKey.pressed ≠ EventKey.clockwise := by decide

theorem witness_DirectionKeyEqualsPin :
    shownEvent { Outputs.none with evValid := true, evDir := true } = some .counterClockwise := by decide

/-- A cycle and a Subscribe call in a good initialized state. -/
theorem witness_InitializedBlockNeverFaults :
    (decoder 0b00#2 0).initialized = true ∧ Good (decoder 0b00#2 0) ∧
    (∃ t, step (oneLine (decoder 0b00#2 0) 0x9 0 false) = .next t ∧ t.initialized = true) ∧
    ∃ t, step { decoder 0b00#2 0 with inputs := [onPressed 3] } = .next t :=
  ⟨rfl, rfl, ⟨_, nextState_eq_some_iff.mp rfl, by decide⟩, _, rfl⟩

/-- A state of the invariant that is not the one after reset. -/
theorem witness_StepKeepsInvariant :
    Inv (oneLine (decoder 0b10#2 3) 0x8 0x100000005 false) ∧
    ∃ t, step (oneLine (decoder 0b10#2 3) 0x8 0x100000005 false) = .next t ∧ t.out.evValid = true :=
  ⟨by constructor <;> decide, _, nextState_eq_some_iff.mp rfl, by decide⟩

/-- Two states that differ in all three unspecified registers, and two outcomes that agree. -/
theorem witness_UnspecifiedRegistersUnobservable :
    SameButUnspecified State.reset { State.reset with prev := 0b11#2, acc := -5, last := 77 } :=
  ⟨rfl, by decide, by decide⟩

end Sys2Proof.Tests.Slice0
end

section
/-! The scope of the model (00_scope.md): which configurations have a meaning, and that a cycle holds its own. -/
namespace Sys2Proof.Machine

/-! #### The constants under each part of a cycle -/

@[simp] theorem effect_widths (i : Instr) (s : State) : (effect i s).widths = s.widths :=
  (effect_frame i s).1

@[simp] theorem effect_cfg (i : Instr) (s : State) : (effect i s).cfg = s.cfg :=
  (effect_frame i s).2.1

@[simp] theorem publishOutputs_widths (pressFirst : Bool) (s : State) :
    (publishOutputs pressFirst s).widths = s.widths := by
  rw [publishOutputs_eq]

@[simp] theorem publishOutputs_cfg (pressFirst : Bool) (s : State) :
    (publishOutputs pressFirst s).cfg = s.cfg := by
  rw [publishOutputs_eq]

/-! #### Cycles with rst = 0 -/

theorem step_of_operating {s : State} {c : Cycle} {rest : List Input}
    (hs : s.inputs = .cycle c :: rest) (hr : c.rst = false) :
    step s = operatingCycle c (setInputs rest s) := by
  simp [step, advance, hs, clockCycle, hr]

theorem operatingCycle_refused_of_changed {c : Cycle} {s : State} (h : c.cfg ≠ s.cfg) :
    operatingCycle c s = .refused .configurationChanged :=
  if_neg h

/-- A cycle with rst = 0 that completes had the held pins and a legal configuration, and leaves the constants
(R14, R134). -/
theorem operatingCycle_holds_constants {c : Cycle} {s t : State} (h : operatingCycle c s = .next t) :
    c.cfg = s.cfg ∧ t.cfg = s.cfg ∧ t.widths = s.widths ∧ Legal s := by
  obtain ⟨i, j, -, -, -, -, hpins, hlegal, rfl⟩ := operatingCycle_next h
  exact ⟨hpins, by simp, by simp, hlegal⟩

/-- Settles O43: the refusal is the cycle's own test of its pins; a cycle that passes it performs two operations and
publishes, and neither writes a constant. -/
theorem configurationIsHeld : Obligations.ConfigurationIsHeld := by
  intro s c rest hs hr
  rw [step_of_operating hs hr]
  constructor
  · intro hpins
    exact operatingCycle_refused_of_changed hpins
  · intro t ht
    exact operatingCycle_holds_constants (s := setInputs rest s) ht

/-! #### STEPS_PER_DETENT outside its range -/

/-- Settles O37: a legal configuration has STEPS_PER_DETENT in its range, and without one every operation is
refused. -/
theorem illegalConfigurationRefused : Obligations.IllegalConfigurationRefused := by
  intro i s hrange
  have hillegal : ¬Legal s := by
    intro hlegal
    obtain ⟨-, -, hmin, hmax, -⟩ := (configLegal_iff s.widths s.cfg).mp hlegal
    rcases hrange with hzero | habove
    · omega
    · exact absurd hmax (Nat.not_le.mpr habove)
  exact exec_refused hillegal i

end Sys2Proof.Machine
end

section
/-! What one operation does to the registers and flags of the block (10_state.md): the fields of the two results of
STEP, the frames of the two ports, and the flags. -/
namespace Sys2Proof.Machine

/-! #### The two results of STEP -/

section
variable (cur : PinState) (s : State)

@[simp] theorem decoderStep_initialized : (decoderStep cur s).initialized = s.initialized := rfl
@[simp] theorem decoderStep_fault : (decoderStep cur s).fault = s.fault := rfl

@[simp] theorem raiseNotInitialized_prev : (raiseNotInitialized s).prev = s.prev := rfl
@[simp] theorem raiseNotInitialized_acc : (raiseNotInitialized s).acc = s.acc := rfl
@[simp] theorem raiseNotInitialized_initialized : (raiseNotInitialized s).initialized = s.initialized := rfl
@[simp] theorem raiseNotInitialized_fault : (raiseNotInitialized s).fault = true := rfl

end

/-! #### The flags -/

/-- Only INIT sets `initialized` (R18). -/
theorem effect_initialized_iff (i : Instr) (s : State) :
    (effect i s).initialized = true ↔ s.initialized = true ∨ ∃ a b, i = .init a b := by
  cases i with
  | qidle => simp [effect]
  | step a b =>
    cases hi : s.initialized with
    | true => simp [effect_step_initialized hi, hi]
    | false => simp [effect_step_uninitialized hi, hi]
  | init a b => simp [effect]
  | pidle => simp [effect]
  | press x => simp [effect_frame_p (i := .press x) rfl s]

/-- Only a STEP before INIT sets `fault` (R20, R103). -/
theorem effect_fault_iff (i : Instr) (s : State) :
    (effect i s).fault = true ↔ s.fault = true ∨ (s.initialized = false ∧ ∃ a b, i = .step a b) := by
  cases i with
  | qidle => simp [effect]
  | step a b =>
    cases hi : s.initialized with
    | true => simp [effect_step_initialized hi]
    | false => simp [effect_step_uninitialized hi]
  | init a b => simp [effect]
  | pidle => simp [effect]
  | press x => simp [effect_frame_p (i := .press x) rfl s]

/-- A PRESS leaves `pressValid` set, accepted or not: only a later edge than the first can be rejected (R19, R79). -/
theorem effect_press_pressValid (x : Nat) (s : State) : (effect (.press x) s).pressValid = true := by
  by_cases haccept : pressAccepted (timestamp x s) s = true
  · simp [effect_press_accepted haccept]
  · have hvalid : s.pressValid = true := by
      by_contra hfirst
      exact haccept (pressAccepted_first (by simpa using hfirst) _)
    simp [effect_press_rejected haccept, hvalid]

/-- Only PRESS sets `pressValid` (R19). -/
theorem effect_pressValid_iff (i : Instr) (s : State) :
    (effect i s).pressValid = true ↔ s.pressValid = true ∨ ∃ x, i = .press x := by
  cases i with
  | qidle => simp [effect]
  | step a b => simp [effect_frame_q (i := .step a b) rfl s]
  | init a b => simp [effect_frame_q (i := .init a b) rfl s]
  | pidle => simp [effect]
  | press x => simp [effect_press_pressValid]

/-- Settles O36: each flag by the operation that sets it. -/
theorem flagsChangeOnlyAsSpecified : Obligations.FlagsChangeOnlyAsSpecified := by
  intro i s t hexec
  obtain ⟨-, rfl⟩ := exec_next_iff.mp hexec
  exact ⟨effect_initialized_iff i s, effect_fault_iff i s, effect_pressValid_iff i s⟩

/-! #### The Q port -/

/-- What STEP leaves of the decoder's own state, by its guard (R61). -/
theorem effect_step_frame (a b : Bool) (s : State) :
    (effect (.step a b) s).initialized = s.initialized ∧
    (s.initialized = false →
      (effect (.step a b) s).prev = s.prev ∧ (effect (.step a b) s).acc = s.acc) ∧
    (s.initialized = true → (effect (.step a b) s).fault = s.fault) := by
  cases hi : s.initialized with
  | true => simp [effect_step_initialized hi, hi]
  | false => simp [effect_step_uninitialized hi, hi]

/-- Settles O34: the frame of every operation, the frame of the Q port, and what is left by each of its forms. -/
theorem quadratureOperationsFrame : Obligations.QuadratureOperationsFrame := by
  intro i s t hport hexec
  obtain ⟨-, rfl⟩ := exec_next_iff.mp hexec
  obtain ⟨hwidths, hcfg, hhandlers, hinvoked, hinputs, hdraws, hpin⟩ := effect_frame i s
  obtain ⟨hlast, hvalid, hpress⟩ := effect_frame_q hport s
  refine ⟨hlast, hvalid, hpress, hpin, hcfg, hwidths, hhandlers, hinvoked, hinputs, hdraws, ?_, ?_, ?_⟩
  · rintro rfl
    simp [effect]
  · rintro a b rfl
    exact effect_step_frame a b s
  · rintro a b rfl
    simp [effect]

/-! #### The P port -/

/-- Without `press_ev` an operation of the P port leaves the debouncer as it was (R17, R19). -/
theorem effect_frame_p_of_rejected {i : Instr} (hport : portOf i = .p) {s : State}
    (hpress : (effect i s).out.pressEv = false) :
    (effect i s).last = s.last ∧ (effect i s).pressValid = s.pressValid := by
  cases i with
  | qidle => cases hport
  | step a b => cases hport
  | init a b => cases hport
  | pidle => simp [effect]
  | press x =>
    by_cases haccept : pressAccepted (timestamp x s) s = true
    · simp [effect_press_accepted haccept] at hpress
    · simp [effect_press_rejected haccept]

/-- Settles O35: the frame of every operation, the frame of the P port, and the debouncer after an edge that was not
accepted. -/
theorem pressOperationsFrame : Obligations.PressOperationsFrame := by
  intro i s t hport hexec
  obtain ⟨-, rfl⟩ := exec_next_iff.mp hexec
  obtain ⟨hwidths, hcfg, hhandlers, hinvoked, hinputs, hdraws, hpin⟩ := effect_frame i s
  obtain ⟨hprev, hacc, hinit, hfault, hevent, hdir, herr⟩ := effect_frame_p hport s
  refine ⟨hprev, hacc, hinit, hfault, hevent, hdir, herr, hpin, hcfg, hwidths, hhandlers, hinvoked, hinputs, hdraws,
    effect_frame_p_of_rejected hport, ?_⟩
  rintro rfl
  simp [effect]

end Sys2Proof.Machine
end

section
/-! The bound on the accumulator (R27) and the invariant of every step: each named update keeps the invariant under the
condition it needs, so every operation, cycle and step keeps it. -/
namespace Sys2Proof.Machine

/-! #### The accumulator -/

/-- A STEP that does not fault ends inside the bound, whatever the count was (R66). -/
theorem accBound_decoderStep {s : State} (hlegal : Legal s) (cur : PinState) : AccBound (decoderStep cur s) :=
  accAfter_bounds (legal_stepsPerDetent hlegal) _

theorem accBound_of_acc_eq_zero {s : State} (hlegal : Legal s) (hzero : s.acc = 0) : AccBound s := by
  have hmin := legal_stepsPerDetent hlegal
  unfold AccBound
  omega

theorem accBound_effect {s : State} (hlegal : Legal s) (hbound : s.initialized = true → AccBound s) (i : Instr)
    (hinit : (effect i s).initialized = true) : AccBound (effect i s) := by
  cases i with
  | qidle => exact hbound hinit
  | step a b =>
    have hbefore : s.initialized = true := by
      rwa [(effect_step_frame a b s).1] at hinit
    rw [effect_step_initialized hbefore]
    exact accBound_decoderStep hlegal _
  | init a b => exact accBound_of_acc_eq_zero (legal_effect hlegal _) rfl
  | pidle => exact hbound hinit
  | press x =>
    obtain ⟨-, hacc, hinit', -⟩ := effect_frame_p (i := .press x) rfl s
    simpa [AccBound, hacc] using hbound (hinit' ▸ hinit)

/-- Settles O23: STEP and INIT end inside the bound, and no other operation writes `acc`. -/
theorem accumulatorStaysBounded : Obligations.AccumulatorStaysBounded := by
  intro i s t hbound hexec hinit
  obtain ⟨hlegal, rfl⟩ := exec_next_iff.mp hexec
  obtain ⟨hlow, hhigh⟩ := accBound_effect hlegal hbound i hinit
  rw [effect_cfg] at hlow hhigh
  exact ⟨hlow, hhigh, effect_cfg i s⟩

/-- In a legal configuration a count inside the bound fits ACC_W bits (R8, R12, R16). -/
theorem accFits_of_accBound {s : State} (hlegal : Legal s) (hbound : AccBound s) :
    -(2 ^ (s.widths.accW - 1) : Int) ≤ s.acc ∧ s.acc < 2 ^ (s.widths.accW - 1) := by
  obtain ⟨-, -, -, hmax, -⟩ := (configLegal_iff s.widths s.cfg).mp hlegal
  have hmax' : (s.cfg.stepsPerDetent : Int) ≤ 2 ^ (s.widths.accW - 1) := by
    exact_mod_cast hmax.trans (Nat.sub_le _ _)
  obtain ⟨hlow, hhigh⟩ := hbound
  omega

/-! #### The invariant under each named update -/

section
variable {s : State} (h : Inv s)
include h

theorem inv_writeDecoder {x : Int} (hbound : s.initialized = true → -(s.cfg.stepsPerDetent : Int) < x ∧
      x < s.cfg.stepsPerDetent)
    (hfits : -(2 ^ (s.widths.accW - 1) : Int) ≤ x ∧ x < 2 ^ (s.widths.accW - 1)) (p : PinState) :
    Inv (writeDecoder p x s) :=
  { h with accBound := hbound, accFits := hfits }

theorem inv_setInitialized (hbound : AccBound s) : Inv (setInitialized s) :=
  { h with accBound := fun _ => hbound, eventNeedsInit := fun _ => rfl }

theorem inv_setFault : Inv (setFault s) :=
  { h with errorRecorded := fun _ => rfl, faultSticky := fun _ => rfl }

theorem inv_writeLast {t : Nat} (hfits : t < 2 ^ s.widths.timeW) : Inv (writeLast t s) :=
  { h with lastFits := hfits, pressRecorded := fun _ => rfl }

theorem inv_driveQ_event (e : Option DetentEvent) (hinit : s.initialized = true) : Inv (driveQ e false s) :=
  { h with
    dirNeedsEvent := by cases e <;> simp
    eventExcludesError := by simp
    eventNeedsInit := fun _ => hinit
    errorRecorded := by simp }

theorem inv_driveQ_none {qErr : Bool} (hrecorded : qErr = true → s.fault = true) : Inv (driveQ none qErr s) :=
  { h with
    dirNeedsEvent := by simp
    eventExcludesError := by simp
    eventNeedsInit := by simp
    errorRecorded := hrecorded }

theorem inv_driveP {pressEv : Bool} (hrecorded : pressEv = true → s.pressValid = true) : Inv (driveP pressEv s) :=
  { h with pressRecorded := hrecorded }

theorem inv_beginCycle : Inv (beginCycle s) := { h with faultSticky := id }

theorem inv_setInputs (rest : List Input) : Inv (setInputs rest s) := { h with }

theorem inv_subscribe (k : EventKey) (x : Handler) : Inv (subscribe k x s) := { h with }

theorem inv_publishOutputs (pressFirst : Bool) : Inv (publishOutputs pressFirst s) := by
  rw [publishOutputs_eq]
  exact { h with }

end

/-- A reset edge establishes the invariant whatever the free values are (R122, R123, log entry 3). -/
theorem inv_resetEdge (pins : Config) (s : State) : Inv (resetEdge pins s) where
  accBound := by simp
  accFits := toAccWidth_bounds _ _
  lastFits := toTimeWidth_lt _ _
  dirNeedsEvent := by simp [Outputs.none]
  eventExcludesError := by simp [Outputs.none]
  eventNeedsInit := by simp [Outputs.none]
  errorRecorded := by simp [Outputs.none]
  pressRecorded := by simp [Outputs.none]
  faultSticky := by simp [Outputs.none]

/-! #### The invariant under operations, cycles and steps -/

section
variable {s : State} (h : Inv s) (hlegal : Legal s)
include h hlegal

theorem inv_decoderStep (hinit : s.initialized = true) (cur : PinState) : Inv (decoderStep cur s) :=
  have hbound := accBound_decoderStep hlegal cur
  inv_driveQ_event (inv_writeDecoder h (fun _ => hbound) (accFits_of_accBound hlegal hbound) cur) _ hinit

theorem inv_effect (i : Instr) : Inv (effect i s) := by
  cases i with
  | qidle => exact inv_driveQ_none h (by simp)
  | step a b =>
    cases hi : s.initialized with
    | true =>
      rw [effect_step_initialized hi]
      exact inv_decoderStep h hlegal hi _
    | false =>
      rw [effect_step_uninitialized hi]
      exact inv_driveQ_none (inv_setFault h) fun _ => rfl
  | init a b =>
    have hzero : AccBound (writeDecoder (pinState a b) 0 s) := accBound_of_acc_eq_zero hlegal rfl
    have hwritten : Inv (writeDecoder (pinState a b) 0 s) :=
      inv_writeDecoder h (fun _ => hzero) (accFits_of_accBound hlegal hzero) _
    exact inv_driveQ_none (inv_setInitialized hwritten hzero) (by simp)
  | pidle => exact inv_driveP h (by simp)
  | press x =>
    by_cases haccept : pressAccepted (timestamp x s) s = true
    · rw [effect_press_accepted haccept]
      exact inv_driveP (inv_writeLast h (timestamp_lt x s)) fun _ => rfl
    · rw [effect_press_rejected haccept]
      exact inv_driveP h (by simp)

end

theorem inv_operatingCycle {c : Cycle} {s t : State} (h : Inv s) (hcycle : operatingCycle c s = .next t) : Inv t := by
  obtain ⟨i, j, -, -, -, -, -, hlegal, rfl⟩ := operatingCycle_next hcycle
  have hq : Inv (effect i (beginCycle s)) := inv_effect (inv_beginCycle h) hlegal i
  have hp : Inv (effect j (effect i (beginCycle s))) := inv_effect hq (legal_effect (s := beginCycle s) hlegal i) j
  exact inv_publishOutputs hp c.pressFirst

/-- Settles O48, by what a step can be: a reset edge, a presented cycle, an idle cycle, or a Subscribe call. -/
theorem stepKeepsInvariant : Obligations.StepKeepsInvariant := by
  intro s t h hstep
  obtain ⟨c, rest, -, -, rfl⟩ | ⟨c, rest, -, -, hcycle⟩ | ⟨-, hcycle⟩ | ⟨k, x, rest, -, rfl⟩ := step_cases hstep
  · exact inv_resetEdge c.cfg _
  · exact inv_operatingCycle (inv_setInputs h rest) hcycle
  · exact inv_operatingCycle h hcycle
  · exact inv_subscribe (inv_setInputs h rest) k x

end Sys2Proof.Machine
end

section
/-! Streams of presses (R28): the spacing of the accepted ones in true time. The clock is seen modulo `2^TIME_W`, and a
modular difference is never more than the true one, so an edge that passes the filter is far enough away in truth. -/
namespace Sys2Proof.Machine

/-! #### The accepted times of a stream -/

theorem acceptedTimes_of_refused {s : State} (hillegal : ¬Legal s) (times : List Nat) : acceptedTimes times s = [] := by
  cases times with
  | nil => rfl
  | cons t ts => simp [acceptedTimes, exec_refused hillegal]

theorem acceptedTimes_cons_accepted {s : State} (hlegal : Legal s) {t : Nat}
    (haccept : pressAccepted (timestamp t s) s = true) (ts : List Nat) :
    acceptedTimes (t :: ts) s = t :: acceptedTimes ts (driveP true (writeLast (timestamp t s) s)) := by
  simp [acceptedTimes, exec_of_legal hlegal, effect_press_accepted haccept]

theorem acceptedTimes_cons_rejected {s : State} (hlegal : Legal s) {t : Nat}
    (hreject : ¬pressAccepted (timestamp t s) s = true) (ts : List Nat) :
    acceptedTimes (t :: ts) s = acceptedTimes ts (driveP false s) := by
  simp [acceptedTimes, exec_of_legal hlegal, effect_press_rejected hreject]

theorem acceptedTimes_sublist (times : List Nat) (s : State) : (acceptedTimes times s).Sublist times := by
  induction times generalizing s with
  | nil => exact List.Sublist.refl _
  | cons t ts ih =>
    by_cases hlegal : Legal s
    · by_cases haccept : pressAccepted (timestamp t s) s = true
      · rw [acceptedTimes_cons_accepted hlegal haccept]
        exact (ih _).cons_cons t
      · rw [acceptedTimes_cons_rejected hlegal haccept]
        exact (ih _).cons t
    · rw [acceptedTimes_of_refused hlegal]
      exact List.nil_sublist _

/-! #### The last accepted press in true time -/

/-- The debouncer has accepted a press, the last one at the true time `trueLast`, which `last` holds modulo
`2^TIME_W`. -/
def LastAcceptedAt (trueLast : Nat) (s : State) : Prop :=
  s.pressValid = true ∧ s.last = timestamp trueLast s

theorem lastAcceptedAt_accepted (t : Nat) (s : State) :
    LastAcceptedAt t (driveP true (writeLast (timestamp t s) s)) :=
  ⟨rfl, rfl⟩

theorem lastAcceptedAt_rejected {trueLast : Nat} {s : State} (h : LastAcceptedAt trueLast s) :
    LastAcceptedAt trueLast (driveP false s) :=
  h

/-- The modular difference of two timestamps is the true difference modulo `2^TIME_W` (R82). -/
theorem subModulo_toTimeWidth {w trueNow trueLast : Nat} (hle : trueLast ≤ trueNow) :
    subModulo w (toTimeWidth w trueNow) (toTimeWidth w trueLast) = (trueNow - trueLast) % 2 ^ w := by
  zify [hle]
  simp [subModulo_eq_emod, toTimeWidth, Int.sub_emod]

/-- An accepted later edge is more than the interval after the last accepted one, in true time. -/
theorem lt_of_pressAccepted {trueLast t : Nat} {s : State} (hlast : LastAcceptedAt trueLast s) (hle : trueLast ≤ t)
    (haccept : pressAccepted (timestamp t s) s = true) : trueLast + s.cfg.pressDebounceMs < t := by
  obtain ⟨hvalid, heq⟩ := hlast
  have hfilter := (pressAccepted_later hvalid _).mp haccept
  rw [heq, timestamp, timestamp, subModulo_toTimeWidth hle] at hfilter
  have hdiff : s.cfg.pressDebounceMs < t - trueLast := hfilter.trans_le (Nat.mod_le _ _)
  omega

/-- The stream after an accepted press: the accepted times, that press before them, are spaced. Two that are not
neighbours are further apart than neighbours, so each is compared with the last accepted one only. -/
theorem acceptedTimes_spaced_after (ts : List Nat) {trueLast : Nat} {s : State} (hlast : LastAcceptedAt trueLast s)
    (hmono : (trueLast :: ts).Pairwise (fun x y => x ≤ y)) :
    (trueLast :: acceptedTimes ts s).Pairwise (fun x y => x + s.cfg.pressDebounceMs < y) := by
  induction ts generalizing trueLast s with
  | nil => exact List.pairwise_singleton _ _
  | cons t ts ih =>
    obtain ⟨hfirst, htail⟩ := List.pairwise_cons.mp hmono
    by_cases hlegal : Legal s
    · by_cases haccept : pressAccepted (timestamp t s) s = true
      · rw [acceptedTimes_cons_accepted hlegal haccept]
        have hgap : trueLast + s.cfg.pressDebounceMs < t := lt_of_pressAccepted hlast (hfirst t (by simp)) haccept
        have hspaced := ih (lastAcceptedAt_accepted t s) htail
        refine List.pairwise_cons.mpr ⟨fun y hy => ?_, hspaced⟩
        rcases List.mem_cons.mp hy with rfl | hlater
        · exact hgap
        · have hgap' : t + s.cfg.pressDebounceMs < y := List.rel_of_pairwise_cons hspaced hlater
          omega
      · rw [acceptedTimes_cons_rejected hlegal haccept]
        exact ih (lastAcceptedAt_rejected hlast) (hmono.sublist ((List.sublist_cons_self t ts).cons_cons trueLast))
    · rw [acceptedTimes_of_refused hlegal]
      exact List.pairwise_singleton _ _

/-- Settles O32: the first edge is accepted (R79), and from then on `last` holds the true time of the last accepted
press modulo `2^TIME_W`. -/
theorem acceptedPressesAreSpaced : Obligations.AcceptedPressesAreSpaced := by
  intro times s hnone hmono
  cases times with
  | nil => simp [acceptedTimes]
  | cons t ts =>
    have hfirst (hlegal : Legal s) := acceptedTimes_cons_accepted hlegal (pressAccepted_first hnone (timestamp t s)) ts
    refine ⟨?_, acceptedTimes_sublist (t :: ts) s, fun hlegal => by simp [hfirst hlegal]⟩
    by_cases hlegal : Legal s
    · rw [hfirst hlegal]
      exact acceptedTimes_spaced_after ts (lastAcceptedAt_accepted t s) hmono
    · rw [acceptedTimes_of_refused hlegal]
      exact List.Pairwise.nil

end Sys2Proof.Machine
end

section
/-! The memory of the block (20_memory.md): the TransitionTable as it is stored, addressed and read, and the commuting
of the two ports, of which only the Q port reads it. -/
namespace Sys2Proof.Machine

/-! #### The two ports commute

An operation of the P port is made of `driveP` and `writeLast`. Nothing of the Q port reads or writes what they write
(the guard of STEP included), and nothing of the Q port writes what the acceptance of a press reads. -/

/-- STEP commutes with an update that keeps its guard and commutes with both of its results. -/
theorem effect_step_comm {f : State → State} {s : State} (hguard : (f s).initialized = s.initialized)
    (hstep : ∀ cur, decoderStep cur (f s) = f (decoderStep cur s))
    (hraise : raiseNotInitialized (f s) = f (raiseNotInitialized s)) (a b : Bool) :
    effect (.step a b) (f s) = f (effect (.step a b) s) := by
  cases hi : s.initialized with
  | true => rw [effect_step_initialized hi, effect_step_initialized (hguard.trans hi), hstep]
  | false => rw [effect_step_uninitialized hi, effect_step_uninitialized (hguard.trans hi), hraise]

section
variable {i : Instr} (hport : portOf i = .q)
include hport

theorem effect_q_driveP (pressEv : Bool) (s : State) : effect i (driveP pressEv s) = driveP pressEv (effect i s) := by
  cases i with
  | qidle => rfl
  | step a b => exact effect_step_comm (f := driveP pressEv) rfl (fun _ => rfl) rfl a b
  | init a b => rfl
  | pidle => cases hport
  | press t => cases hport

theorem effect_q_writeLast (t : Nat) (s : State) : effect i (writeLast t s) = writeLast t (effect i s) := by
  cases i with
  | qidle => rfl
  | step a b => exact effect_step_comm (f := writeLast t) rfl (fun _ => rfl) rfl a b
  | init a b => rfl
  | pidle => cases hport
  | press t => cases hport

/-- A Q operation before a press changes neither its timestamp nor its acceptance (R84). -/
theorem pressAccepted_effect_q (t : Nat) (s : State) :
    pressAccepted t (effect i s) = pressAccepted t s ∧ timestamp t (effect i s) = timestamp t s := by
  obtain ⟨hlast, hvalid, -⟩ := effect_frame_q hport s
  exact pressAccepted_congr hvalid (fun _ => hlast) (effect_cfg i s) (effect_widths i s) t

end

/-- The effects of a Q operation and a P operation commute (R43, R108). -/
theorem effect_comm {i j : Instr} (hi : portOf i = .q) (hj : portOf j = .p) (s : State) :
    effect j (effect i s) = effect i (effect j s) := by
  cases j with
  | qidle => cases hj
  | step a b => cases hj
  | init a b => cases hj
  | pidle => exact (effect_q_driveP hi false s).symm
  | press t =>
    have htime : timestamp t (effect i s) = timestamp t s := (pressAccepted_effect_q hi t s).2
    have haccepted : pressAccepted (timestamp t (effect i s)) (effect i s) = pressAccepted (timestamp t s) s := by
      rw [htime, (pressAccepted_effect_q hi _ s).1]
    by_cases haccept : pressAccepted (timestamp t s) s = true
    · rw [effect_press_accepted haccept, effect_press_accepted (haccepted.trans haccept), htime,
        effect_q_driveP hi, effect_q_writeLast hi]
    · rw [effect_press_rejected haccept, effect_press_rejected (haccepted ▸ haccept), effect_q_driveP hi]

/-- What two operations performed one after the other leave. -/
theorem exec_andThen_exec {s : State} (hlegal : Legal s) (i j : Instr) :
    andThen (exec i s) (exec j) = .next (effect j (effect i s)) := by
  rw [exec_of_legal hlegal, andThen, exec_of_legal (legal_effect hlegal i)]

/-- Settles O33: in a legal configuration both orders complete and their effects commute, and in any other both are
refused for the same reason. -/
theorem portOperationsCommute : Obligations.PortOperationsCommute := by
  intro i j s hi hj
  by_cases hlegal : Legal s
  · rw [exec_andThen_exec hlegal, exec_andThen_exec hlegal, effect_comm hi hj]
  · rw [exec_refused hlegal, exec_refused hlegal]
    rfl

/-! #### The stored table and its one access -/

theorem tableIndex_toNat (p c : PinState) : (tableIndex p c).toNat = 4 * p.toNat + c.toNat := by
  revert p c; decide

/-- R33: the table is the packed constant, two bits an entry. -/
theorem memRead_eq_packed (idx : TableIndex) :
    memRead idx = (0x1CC14334#32).extractLsb' (2 * idx.toNat) 2 := by
  revert idx; decide

theorem memRead_ne_minusTwo (idx : TableIndex) : memRead idx ≠ 0b10#2 := by
  revert idx; decide

/-- R30: the entries as signed deltas. The list has all 16 of them, so its default 7 is never taken. -/
theorem memRead_toInt (idx : TableIndex) : (memRead idx).toInt =
    ([0, 1, -1, 0, -1, 0, 0, 1, 1, 0, 0, -1, 0, -1, 1, 0] : List Int).getD idx.toNat 7 := by
  revert idx; decide

/-- Settles O8: the access reads the entry at `4*prev + cur`. -/
theorem transitionTableContents : Obligations.TransitionTableContents := by
  intro p c
  rw [transitionDelta, memRead_toInt, tableIndex_toNat]

/-- Settles O9: the read through the packed constant is the access at its address. -/
theorem transitionTableStorage : Obligations.TransitionTableStorage := by
  refine ⟨rfl, tableIndex_toNat, memRead_eq_packed, memRead_ne_minusTwo, ?_⟩
  intro p c
  rw [transitionDelta, memRead_eq_packed, tableIndex_toNat]

/-! #### The properties of the table (R31) -/

theorem transitionDelta_antisymm (p c : PinState) : transitionDelta c p = -transitionDelta p c := by
  revert p c; decide

theorem transitionDelta_complement (p c : PinState) : transitionDelta (~~~p) (~~~c) = transitionDelta p c := by
  revert p c; decide

/-- No change is its own reverse. -/
theorem transitionDelta_self (p : PinState) : transitionDelta p p = 0 := by
  have hreverse := transitionDelta_antisymm p p
  omega

/-- Complementing both states of a double-bit change reverses it. -/
theorem transitionDelta_doubleBit {p c : PinState} (hboth : p ^^^ c = 0b11#2) : transitionDelta p c = 0 := by
  have hc : c = ~~~p := by revert p c; decide
  subst hc
  have hreverse := transitionDelta_antisymm p (~~~p)
  have hcomplement := transitionDelta_complement p (~~~p)
  rw [BitVec.not_not] at hcomplement
  omega

theorem transitionDelta_singleBit (p c : PinState) (hone : p ^^^ c = 0b01#2 ∨ p ^^^ c = 0b10#2) :
    transitionDelta p c = 1 ∨ transitionDelta p c = -1 := by
  revert p c; decide

/-- R31 item 6: motion when exactly one line changed, its sign by the old line A and the new line B. -/
theorem transitionDelta_closedForm (pA pB cA cB : Bool) :
    transitionDelta (pinState pA pB) (pinState cA cB) =
      if ((pA ^^ cA) ^^ (pB ^^ cB)) then (if pA ^^ cB then 1 else -1) else 0 := by
  revert pA pB cA cB; decide

/-- Settles O10: no change and the double-bit change by antisymmetry and complement, the others from the entries. -/
theorem transitionTableProperties : Obligations.TransitionTableProperties := by
  refine ⟨transitionDelta_self, fun _ _ => transitionDelta_doubleBit, transitionDelta_singleBit,
    transitionDelta_antisymm, ?counts, transitionDelta_closedForm, ?cycle, transitionDelta_complement⟩
  case counts => decide
  case cycle => decide

end Sys2Proof.Machine
end

section
/-! The encodings (30_encoding.md): the words of each port fall into the idle words, whose valid bit is clear, and the
encodings of the other operations; the rows of the opcode table that a word selects; and a cycle that presents encoded
operations. -/
namespace Sys2Proof

/-! #### The words of a port -/

/-- The operation of the words whose valid bit is clear (R53). -/
def idleOf : Port → Instr
  | .q => .qidle
  | .p => .pidle

/-- The weight of a port's valid bit (R48, R50). -/
def validBit (timeW : Nat) : Port → Nat
  | .q => 8
  | .p => 2 ^ timeW

theorem decodeQ_idle {w : Nat} (h : w < 8) : decodeQ (BitVec.ofNat 4 w) = .qidle := by
  interval_cases w <;> rfl

theorem decodeQ_step (a b : Bool) : decodeQ (BitVec.ofNat 4 (0x8 + (2 * bit a + bit b))) = .step a b := by
  revert a b; decide

theorem decodeQ_init (a b : Bool) : decodeQ (BitVec.ofNat 4 (0xC + (2 * bit a + bit b))) = .init a b := by
  revert a b; decide

theorem decode_idle {timeW : Nat} {port : Port} {w : Nat} (h : w < validBit timeW port) :
    decode timeW port w = .ok (idleOf port) := by
  cases port with
  | q =>
    have hfits : w < 16 := Nat.lt_of_lt_of_le h (by decide : 8 ≤ 16)
    rw [decode_q_of_lt hfits, decodeQ_idle h]
    rfl
  | p =>
    have hfits : w < 2 ^ (timeW + 1) := h.trans (Nat.pow_lt_pow_right (by decide) (Nat.lt_succ_self timeW))
    rw [decode_p_of_lt hfits, decodeP_idle h]
    rfl

theorem decode_press {timeW t : Nat} (h : t < 2 ^ timeW) : decode timeW .p (2 ^ timeW + t) = .ok (.press t) := by
  have hfits : 2 ^ timeW + t < 2 ^ (timeW + 1) := Laws.EncodeFits.press t timeW (by simpa [wellFormed] using h)
  rw [decode_p_of_lt hfits, decodeP_press h]

/-- Settles O6: the canonical idle words have their valid bit clear, the samples of STEP and INIT are the two lowest
bits, and the timestamp of PRESS stands below the valid bit. -/
theorem decodeEncodeAgree : Obligations.DecodeEncodeAgree := by
  intro timeW i hwf
  cases i with
  | qidle => exact decode_idle (port := .q) (by decide : 0 < 8)
  | step a b => exact (decode_q_of_lt (Laws.EncodeFits.step a b timeW hwf)).trans (congrArg _ (decodeQ_step a b))
  | init a b => exact (decode_q_of_lt (Laws.EncodeFits.init a b timeW hwf)).trans (congrArg _ (decodeQ_init a b))
  | pidle => exact decode_idle (port := .p) (Nat.two_pow_pos timeW)
  | press t => exact decode_press (by simpa [wellFormed] using hwf)

theorem wellFormed_of_q {timeW : Nat} {i : Instr} (h : portOf i = .q) : wellFormed timeW i = true := by
  cases i with
  | press t => cases h
  | _ => rfl

/-- A word of a port is idle or the encoding of an operation. -/
theorem word_cases {timeW : Nat} {port : Port} {w : Nat} (h : w < 2 ^ portWidth timeW port) :
    w < validBit timeW port ∨ ∃ i, portOf i = port ∧ wellFormed timeW i = true ∧ encode timeW i = w := by
  cases port with
  | q =>
    rcases Nat.lt_or_ge w 8 with hidle | hvalid
    · exact .inl hidle
    · have hport : portOf (decodeQ (BitVec.ofNat 4 w)) = .q := Machine.decode_port (decode_q_of_lt (timeW := timeW) h)
      exact .inr ⟨_, hport, wellFormed_of_q hport, encode_decodeQ h hvalid⟩
  | p =>
    rcases pWord_cases h with hidle | ⟨t, ht, rfl⟩
    · exact .inl hidle
    · exact .inr ⟨.press t, rfl, by simpa [wellFormed] using ht, rfl⟩

theorem lt_of_decode {timeW : Nat} {port : Port} {w : Nat} {i : Instr} (h : decode timeW port w = .ok i) :
    w < 2 ^ portWidth timeW port := by
  by_contra hwide
  cases port with
  | q => cases h.symm.trans (if_neg hwide)
  | p => cases h.symm.trans (if_neg hwide)

/-- What a word that decodes is: an idle word, or the encoding of its operation. -/
theorem decode_cases {timeW : Nat} {port : Port} {w : Nat} {i : Instr} (h : decode timeW port w = .ok i) :
    (w < validBit timeW port ∧ i = idleOf port) ∨ (wellFormed timeW i = true ∧ encode timeW i = w) := by
  rcases word_cases (lt_of_decode h) with hidle | ⟨j, rfl, hwf, rfl⟩
  · exact .inl ⟨hidle, Except.ok.inj (h.symm.trans (decode_idle hidle))⟩
  · obtain rfl : i = j := Except.ok.inj (h.symm.trans (decodeEncodeAgree timeW j hwf))
    exact .inr ⟨hwf, rfl⟩

/-- Settles O7: only an idle word can differ from the encoding of its operation, and it is below the valid bit. -/
theorem encodeDecodeAgree : Obligations.EncodeDecodeAgree := by
  intro timeW port w i h
  have hport : portOf i = port := Machine.decode_port h
  rcases decode_cases h with ⟨hidle, rfl⟩ | ⟨hwf, hencode⟩
  · refine ⟨by cases port <;> rfl, hport, ?_, ?_⟩
    all_goals
      rintro rfl hvalid
      exact absurd hidle (Nat.not_lt.mpr hvalid)
  · exact ⟨hwf, hport, fun _ _ => hencode, fun _ _ => hencode⟩

/-! #### Masks and rows -/

theorem and_validBit_of_lt {timeW t : Nat} (h : t < 2 ^ timeW) : t &&& 2 ^ timeW = 0 := by
  simp [Nat.and_two_pow, Nat.testBit_lt_two_pow h]

theorem and_validBit_of_press {timeW t : Nat} (h : t < 2 ^ timeW) : (2 ^ timeW + t) &&& 2 ^ timeW = 2 ^ timeW := by
  simp [Nat.and_two_pow, Nat.testBit_two_pow_add_eq, Nat.testBit_lt_two_pow h]

/-- Settles O3: both words decode by their form, and the mask reads the valid bit alone. -/
theorem pressWordsDecode : Obligations.PressWordsDecode := by
  intro timeW t ht
  exact ⟨decode_idle ht, decode_press ht, and_validBit_of_lt ht, and_validBit_of_press ht⟩

/-- The three rows of the Q port (R49), tried on the 16 words. -/
theorem decodeQ_rows {w : Nat} (h : w < 16) :
    (w &&& 0x8 = 0x0 ↔ mnemonicOf (decodeQ (BitVec.ofNat 4 w)) = "QIDLE") ∧
    (w &&& 0xC = 0x8 ↔ mnemonicOf (decodeQ (BitVec.ofNat 4 w)) = "STEP") ∧
    (w &&& 0xC = 0xC ↔ mnemonicOf (decodeQ (BitVec.ofNat 4 w)) = "INIT") := by
  interval_cases w <;> decide

/-- The two rows of the P port (R51). -/
theorem decodeP_rows {timeW w : Nat} (h : w < 2 ^ (timeW + 1)) :
    (w &&& 2 ^ timeW = 0 ↔ mnemonicOf (decodeP timeW w) = "PIDLE") ∧
    (w &&& 2 ^ timeW = 2 ^ timeW ↔ mnemonicOf (decodeP timeW w) = "PRESS") := by
  have hmatch : 0 ≠ 2 ^ timeW := (Nat.two_pow_pos timeW).ne
  rcases pWord_cases h with hidle | ⟨t, ht, rfl⟩
  · simp [decodeP_idle hidle, and_validBit_of_lt hidle, mnemonicOf, hmatch]
  · simp [decodeP_press ht, and_validBit_of_press ht, mnemonicOf]

/-- A word selects the rows that carry the mnemonic of its operation. -/
theorem row_selected_iff {timeW w : Nat} {i : Instr} {row : TableRow} (hrow : row ∈ opcodeTable timeW)
    (h : decode timeW row.port w = .ok i) : w &&& row.mask = row.pattern ↔ mnemonicOf i = row.mnemonic := by
  have hfits := lt_of_decode h
  simp only [opcodeTable, List.mem_cons, List.not_mem_nil, or_false] at hrow
  rcases hrow with rfl | rfl | rfl | rfl | rfl
  case inl | inr.inl | inr.inr.inl =>
    obtain rfl := Except.ok.inj ((decode_q_of_lt hfits).symm.trans h)
    obtain ⟨hqidle, hstep, hinit⟩ := decodeQ_rows hfits
    assumption
  case inr.inr.inr.inl | inr.inr.inr.inr =>
    obtain rfl := Except.ok.inj ((decode_p_of_lt hfits).symm.trans h)
    obtain ⟨hpidle, hpress⟩ := decodeP_rows hfits
    assumption

theorem exists_row (timeW : Nat) (i : Instr) :
    ∃ row ∈ opcodeTable timeW, row.port = portOf i ∧ mnemonicOf i = row.mnemonic := by
  cases i <;> simp [opcodeTable, portOf, mnemonicOf]

/-- No two rows share a mnemonic. -/
theorem row_eq_of_mnemonic {timeW : Nat} {r r' : TableRow} (hr : r ∈ opcodeTable timeW)
    (hr' : r' ∈ opcodeTable timeW) (h : r.mnemonic = r'.mnemonic) : r = r' := by
  have hnodup : ((opcodeTable timeW).map TableRow.mnemonic).Nodup := by simp [opcodeTable]
  exact List.inj_on_of_nodup_map hnodup hr hr' h

theorem exists_decode {timeW : Nat} {port : Port} {w : Nat} (h : w < 2 ^ portWidth timeW port) :
    ∃ i, decode timeW port w = .ok i := by
  cases port with
  | q => exact ⟨_, decode_q_of_lt h⟩
  | p => exact ⟨_, decode_p_of_lt h⟩

/-- Settles O4: the rows a word selects are those with the mnemonic of its operation, and there is exactly one. -/
theorem everyWordSelectsExactlyOneRow : Obligations.EveryWordSelectsExactlyOneRow := by
  intro timeW port w hfits
  obtain ⟨i, h⟩ := exists_decode hfits
  obtain rfl := Machine.decode_port h
  have hselected : ∀ row ∈ opcodeTable timeW, row.port = portOf i →
      (w &&& row.mask = row.pattern ↔ mnemonicOf i = row.mnemonic) :=
    fun row hrow hport => row_selected_iff hrow (hport ▸ h)
  obtain ⟨row, hrow, hport, hname⟩ := exists_row timeW i
  refine ⟨⟨row, ⟨hrow, hport, (hselected row hrow hport).mpr hname⟩, ?unique⟩, i, h, rfl, ?named⟩
  case unique =>
    rintro row' ⟨hrow', hport', hsel⟩
    exact row_eq_of_mnemonic hrow' hrow (((hselected row' hrow' hport').mp hsel).symm.trans hname)
  case named =>
    intro row' hrow' hport' hsel
    exact ((hselected row' hrow' hport').mp hsel).symm

/-- Settles O1: words below the valid bit are idle, and the others are written-out encodings. -/
theorem writtenOutWordsDecode : Obligations.WrittenOutWordsDecode := by
  have hcoded := decodeEncodeAgree 32
  exact ⟨decode_idle (by decide), decode_idle (by decide), hcoded (.step false true) rfl,
    hcoded (.step true false) rfl, hcoded (.init false true) rfl, hcoded (.init true false) rfl,
    decode_idle (by decide), hcoded (.press 40) rfl, hcoded (.press 0xFFFFFFFF) rfl⟩

/-- Settles O2: the written words of STEP and INIT are their encodings. -/
theorem quadratureWordsDecode : Obligations.QuadratureWordsDecode := by
  intro timeW
  refine ⟨?idle, ?step, ?init, ?rows⟩
  case idle => exact fun w hw => decode_idle (port := .q) (Nat.lt_succ_of_le hw)
  case step =>
    intro a b
    rw [Nat.add_assoc]
    exact decodeEncodeAgree timeW (.step a b) rfl
  case init =>
    intro a b
    rw [Nat.add_assoc]
    exact decodeEncodeAgree timeW (.init a b) rfl
  case rows => exact fun w hw => ⟨_, decode_q_of_lt hw, decodeQ_rows hw⟩

/-- Settles O5: both words select the port's idle operation. -/
theorem idlePayloadBitsIgnored : Obligations.IdlePayloadBitsIgnored := by
  intro timeW w w'
  constructor
  · intro hw hw'
    exact (decode_idle (port := .q) hw).trans (decode_idle (port := .q) hw').symm
  · intro hw hw'
    exact (decode_idle (port := .p) hw).trans (decode_idle (port := .p) hw').symm

end Sys2Proof

namespace Sys2Proof.Machine

/-! #### A cycle performs the operations its words decode to -/

theorem readPort_of_decode {port : Port} {w : Nat} {s : State} {i : Instr}
    (h : decode s.widths.timeW port w = .ok i) (f : Instr → Result) : readPort port w s f = f i := by
  simp only [readPort, h]

theorem operatingCycle_of_decode {c : Cycle} {s : State} {i j : Instr} (hpins : c.cfg = s.cfg)
    (hi : decode s.widths.timeW .q c.q = .ok i) (hj : decode s.widths.timeW .p c.p = .ok j) :
    operatingCycle c s =
      andThen (performBoth i j (beginCycle s)) fun t => .next (publishOutputs c.pressFirst t) := by
  rw [operatingCycle, if_pos hpins, readPort_of_decode hi, readPort_of_decode hj]

/-- Settles O38: the written-out state is the cycle's own, begun with the entry taken. -/
theorem stepRunsDecodedOperations : Obligations.StepRunsDecodedOperations := by
  intro s c rest i j hs hr hpins hi hj
  rw [step_of_operating hs hr]
  exact operatingCycle_of_decode (s := setInputs rest s) hpins hi hj

/-- Settles O39: the words of the line decode to its operations. -/
theorem traceLinePerformsBoth : Obligations.TraceLinePerformsBoth := by
  intro s rest pressFirst i j hiport hjport hi hj
  have hqword : decode s.widths.timeW .q (encode s.widths.timeW i) = .ok i :=
    hiport ▸ decodeEncodeAgree s.widths.timeW i hi
  have hpword : decode s.widths.timeW .p (encode s.widths.timeW j) = .ok j :=
    hjport ▸ decodeEncodeAgree s.widths.timeW j hj
  exact stepRunsDecodedOperations { s with inputs := traceLine s.widths s.cfg pressFirst i j :: rest } _ rest i j
    rfl rfl rfl hqword hpword

end Sys2Proof.Machine
end

section
/-! The operations of the Q port (40_quadrature.md): INIT, QIDLE, the guard of STEP, and what a STEP that does not fault
leaves, by the event of its stage 5. -/
namespace Sys2Proof.Machine

/-! #### INIT, QIDLE and the guard of STEP -/

/-- Settles O12: the effect of INIT, its PinState written as a number. -/
theorem initCapturesSamples : Obligations.InitCapturesSamples := by
  intro a b s hlegal
  rw [exec_of_legal hlegal, ← pinState_eq_ofNat]
  rfl

/-- Settles O13: the effect of QIDLE drives the pins of the Q port alone. -/
theorem qidleChangesNothing : Obligations.QidleChangesNothing := by
  intro s hlegal
  exact exec_of_legal hlegal .qidle

/-- Settles O14: before INIT the effect of STEP is the exception. -/
theorem stepBeforeInitRaises : Obligations.StepBeforeInitRaises := by
  intro a b s hlegal hinit
  rw [exec_of_legal hlegal, effect_step_uninitialized hinit]
  rfl

/-! #### STEP by its event -/

theorem exec_step_initialized {s : State} (hlegal : Legal s) (hinit : s.initialized = true) (a b : Bool) :
    exec (.step a b) s = .next (decoderStep (pinState a b) s) := by
  rw [exec_of_legal hlegal, effect_step_initialized hinit]

theorem exec_stepOp {s : State} (hlegal : Legal s) (hinit : s.initialized = true) (cur : PinState) :
    exec (stepOp cur) s = .next (decoderStep cur s) := by
  rw [stepOp, exec_step_initialized hlegal hinit, pinState_bits]

theorem legal_decoderStep {s : State} (hlegal : Legal s) (cur : PinState) : Legal (decoderStep cur s) := hlegal

section
variable (cur : PinState) (s : State)

@[simp] theorem decoderStep_cfg : (decoderStep cur s).cfg = s.cfg := rfl
@[simp] theorem decoderStep_prev : (decoderStep cur s).prev = cur := rfl
@[simp] theorem decoderStep_acc :
    (decoderStep cur s).acc = accAfter s.cfg.stepsPerDetent (stepSum cur s) := rfl
@[simp] theorem decoderStep_evValid :
    (decoderStep cur s).out.evValid = (detentEvent s.cfg.stepsPerDetent (stepSum cur s)).isSome := rfl
@[simp] theorem decoderStep_evDir :
    (decoderStep cur s).out.evDir =
      decide (detentEvent s.cfg.stepsPerDetent (stepSum cur s) = some .counterClockwise) := rfl
@[simp] theorem decoderStep_qErr : (decoderStep cur s).out.qErr = false := rfl

@[simp] theorem shownEvent_decoderStep :
    shownEvent (decoderStep cur s).out = detentEvent s.cfg.stepsPerDetent (stepSum cur s) :=
  shownEvent_driveQ _ _ _

end

/-- Without an event a STEP writes the sample and the sum (R66, R67). -/
theorem decoderStep_of_none {cur : PinState} {s : State}
    (hnone : detentEvent s.cfg.stepsPerDetent (stepSum cur s) = none) :
    decoderStep cur s = driveQ none false (writeDecoder cur (stepSum cur s) s) := by
  rw [decoderStep, accAfter_of_none hnone, hnone]

theorem detentEvent_eq_clockwise_iff {n : Nat} {x : Int} : detentEvent n x = some .clockwise ↔ (n : Int) ≤ x := by
  constructor
  · intro hevent
    by_contra hbelow
    simp [detentEvent, hbelow] at hevent
  · exact detentEvent_clockwise

theorem detentEvent_eq_counterClockwise_iff {n : Nat} (hn : 1 ≤ n) {x : Int} :
    detentEvent n x = some .counterClockwise ↔ x ≤ -(n : Int) := by
  constructor
  · intro hevent
    have hneg : detentEvent n (-x) = some .clockwise := by rw [detentEvent_neg hn, hevent]; rfl
    have hreached := detentEvent_eq_clockwise_iff.mp hneg
    omega
  · exact detentEvent_counterClockwise hn

theorem pinState_toNat (a b : Bool) : (pinState a b).toNat = 2 * a.toNat + b.toNat := by
  revert a b; decide

/-- Settles O15: the sum written out is that of stage 4 (R30, R64), and each row of R66 is one event. -/
theorem stepCountsAndFires : Obligations.StepCountsAndFires := by
  intro a b s hlegal hinit
  refine ⟨_, exec_step_initialized hlegal hinit a b, pinState_eq_ofNat a b, ?_⟩
  intro delta sum hdelta hsum
  rw [← pinState_toNat, ← transitionTableContents] at hdelta
  have hstage4 : stepSum (pinState a b) s = sum := by rw [hsum, hdelta]; rfl
  refine ⟨fun habove => ?clockwise, fun hbelow => ?counterClockwise, fun hlow hhigh => ?nothing⟩
  case clockwise =>
    have hevent := detentEvent_clockwise habove
    simp [hstage4, hevent, accAfter_of_some hevent]
  case counterClockwise =>
    have hevent := detentEvent_counterClockwise (legal_stepsPerDetent hlegal) hbelow
    simp [hstage4, hevent, accAfter_of_some hevent]
  case nothing =>
    have hevent := detentEvent_none hlow hhigh
    simp [hstage4, hevent, accAfter_of_none hevent]

/-! #### STEPs from within the bound -/

theorem detentEvent_acc_of_accBound {s : State} (hbound : AccBound s) :
    detentEvent s.cfg.stepsPerDetent s.acc = none :=
  detentEvent_none hbound.1 hbound.2

theorem stepSum_of_delta_zero {cur : PinState} {s : State} (hdelta : transitionDelta s.prev cur = 0) :
    stepSum cur s = s.acc := by
  simp [stepSum, hdelta, direct]

/-- A transition that counts nothing fires nothing and leaves the count (R68, R69). -/
theorem decoderStep_of_delta_zero {cur : PinState} {s : State} (hbound : AccBound s)
    (hdelta : transitionDelta s.prev cur = 0) :
    decoderStep cur s = driveQ none false (writeDecoder cur s.acc s) := by
  have hsum : stepSum cur s = s.acc := stepSum_of_delta_zero hdelta
  have hnone : detentEvent s.cfg.stepsPerDetent (stepSum cur s) = none := by
    rw [hsum]; exact detentEvent_acc_of_accBound hbound
  rw [decoderStep_of_none hnone, hsum]

/-- Settles O17: the table holds 0 for a change of both bits (R31 item 2), and that sample is the complement. -/
theorem illegalTransitionIsNoMotion : Obligations.IllegalTransitionIsNoMotion := by
  intro a b s hlegal hinit hbound hboth
  rw [← pinState_eq_ofNat] at hboth
  have hcomplement : pinState a b = ~~~s.prev := by
    generalize pinState a b = cur at hboth ⊢
    generalize s.prev = p at hboth ⊢
    revert p cur; decide
  rw [exec_step_initialized hlegal hinit, decoderStep_of_delta_zero hbound (transitionDelta_doubleBit hboth),
    hcomplement]
  rfl

/-- Settles O19: the count is inside the bound and stage 4 moves it by at most one, so a sum at or past a threshold is
on it. -/
theorem thresholdReachedExactly : Obligations.ThresholdReachedExactly := by
  intro a b s t hinit hbound hexec hfired
  have hlegal : Legal s := (exec_next_iff.mp hexec).1
  obtain rfl := Host.Outcome.next.inj ((exec_step_initialized hlegal hinit a b).symm.trans hexec)
  rw [← pinState_eq_ofNat]
  have hmoved := stepSum_cases (pinState a b) s
  obtain ⟨hlow, hhigh⟩ := hbound
  obtain ⟨event, hevent⟩ := Option.isSome_iff_exists.mp hfired
  cases event with
  | clockwise =>
    have hreached := detentEvent_eq_clockwise_iff.mp hevent
    exact ⟨fun _ => by omega, by simp [hevent]⟩
  | counterClockwise =>
    have hreached := (detentEvent_eq_counterClockwise_iff (legal_stepsPerDetent hlegal)).mp hevent
    exact ⟨by simp [hevent], fun _ => by omega⟩

/-- With one quarter-step per detent any motion is an event (R71), its direction swapped under inversion (R64). -/
theorem detentEvent_one_direct (invert moved up : Bool) :
    detentEvent 1 (direct invert (if moved then (if up then 1 else -1) else 0)) =
      if moved then some (if (invert ^^ !up) then .counterClockwise else .clockwise) else none := by
  revert invert moved up; decide

/-- Settles O20: from `acc = 0` the sum is the delta of the closed form (R31 item 6), and the bound 1 leaves no count
but 0. -/
theorem oneStepPerDetentAlwaysFires : Obligations.OneStepPerDetentAlwaysFires := by
  intro a b s hlegal hinit hone hzero
  have hbound : AccBound (decoderStep (pinState a b) s) := accBound_decoderStep hlegal _
  have hevent : detentEvent s.cfg.stepsPerDetent (stepSum (pinState a b) s) =
      if (s.prev.getLsbD 1 ^^ a ^^ s.prev.getLsbD 0 ^^ b) then
        some (if (s.cfg.invertDirection ^^ !(s.prev.getLsbD 1 ^^ b)) then .counterClockwise else .clockwise)
      else none := by
    rw [hone, stepSum, hzero, Int.zero_add, ← pinState_bits s.prev, transitionDelta_closedForm,
      detentEvent_one_direct, pinState_bits, Bool.xor_assoc _ (s.prev.getLsbD 0)]
  refine ⟨_, exec_step_initialized hlegal hinit a b, ?acc, ?fires, ?direction⟩
  case acc =>
    rw [AccBound, decoderStep_cfg, hone] at hbound
    omega
  case fires =>
    rw [decoderStep_evValid, hevent]
    exact Bool.eq_iff_iff.mpr Option.isSome_ite
  case direction =>
    rw [decoderStep_evValid, decoderStep_evDir, hevent]
    intro hfired
    rw [if_pos (Option.isSome_ite.mp hfired)]
    generalize (s.cfg.invertDirection ^^ !(s.prev.getLsbD 1 ^^ b)) = backward
    cases backward <;> rfl

theorem direct_neg (invert : Bool) (x : Int) : direct invert (-x) = -direct invert x := by
  cases invert <;> rfl

/-- The reverse transition takes back what the transition counted (R31 item 4, R72). -/
theorem stepSum_back {cur : PinState} {s t : State} (hprev : t.prev = cur) (hcfg : t.cfg = s.cfg)
    (hacc : t.acc = stepSum cur s) : stepSum s.prev t = s.acc := by
  rw [stepSum, hprev, hcfg, hacc, transitionDelta_antisymm, direct_neg, stepSum]
  omega

/-- Settles O22: without an event the first STEP kept its sum, and the second sum is the old count. -/
theorem backAndForthCancels : Obligations.BackAndForthCancels := by
  intro a b s t hlegal hinit hbound hexec hsilent
  obtain rfl := Host.Outcome.next.inj ((exec_step_initialized hlegal hinit a b).symm.trans hexec)
  have hfirst : detentEvent s.cfg.stepsPerDetent (stepSum (pinState a b) s) = none := by
    simpa using hsilent
  have hback : stepSum s.prev (decoderStep (pinState a b) s) = s.acc :=
    stepSum_back (decoderStep_prev _ s) (decoderStep_cfg _ s) (accAfter_of_none hfirst)
  have hsecond := detentEvent_acc_of_accBound hbound
  refine ⟨_, exec_stepOp (legal_decoderStep hlegal _) hinit s.prev, ?_, decoderStep_prev _ _, ?_⟩
  · rw [decoderStep_acc, decoderStep_cfg, hback, accAfter_of_none hsecond]
  · rw [decoderStep_evValid, decoderStep_cfg, hback, hsecond]
    rfl

/-! #### A step in which nothing is presented -/

theorem step_of_nothing {s : State} (hs : s.inputs = []) : step s = operatingCycle (idleCycle s.cfg) s := by
  simp [step, advance, hs, clockCycle, idleCycle]

theorem publishOutputs_of_noEvent (pressFirst : Bool) {s : State} (hdetent : s.out.evValid = false)
    (hpress : s.out.pressEv = false) : publishOutputs pressFirst s = s := by
  have hnoDetent : publishDetent s = s := by simp [publishDetent, shownEvent, hdetent]
  have hnoPress : publishPress s = s := by simp [publishPress, hpress]
  cases pressFirst <;> simp [publishOutputs, hnoDetent, hnoPress]

/-- Settles O42: the words 0 are the idle operations, and no event is left to publish. -/
theorem nothingPresentedChangesNothing : Obligations.NothingPresentedChangesNothing := by
  intro s hlegal hs
  have hq : decode s.widths.timeW .q (idleCycle s.cfg).q = .ok .qidle := decode_idle (port := .q) (by decide : 0 < 8)
  have hp : decode s.widths.timeW .p (idleCycle s.cfg).p = .ok .pidle :=
    decode_idle (port := .p) (Nat.two_pow_pos s.widths.timeW)
  rw [step_of_nothing hs, operatingCycle_of_decode rfl hq hp, performBoth,
    exec_andThen_exec (s := beginCycle s) hlegal, andThen, publishOutputs_of_noEvent _ rfl rfl]
  rfl

end Sys2Proof.Machine
end

section
/-! Runs of Q operations (40_quadrature.md): the unchanged sample, the Gray cycle in one direction, and the mirror image
under inversion. -/
namespace Sys2Proof.Machine

/-! #### Runs -/

theorem runOps_cons_of_legal {s : State} (hlegal : Legal s) (i : Instr) (is : List Instr) :
    runOps (i :: is) s =
      (runOps is (effect i s)).map fun r => (r.1, (firedEvent i (effect i s).out).toList ++ r.2) := by
  simp only [runOps, exec_of_legal hlegal]

theorem runOps_cons_of_refused {s : State} (hillegal : ¬Legal s) (i : Instr) (is : List Instr) :
    runOps (i :: is) s = none := by
  simp only [runOps, exec_refused hillegal]

/-- A run that begins with a STEP: the event of its sum, then the rest of the run. -/
theorem runOps_cons_stepOp {s : State} (hlegal : Legal s) (hinit : s.initialized = true) (cur : PinState)
    (is : List Instr) :
    runOps (stepOp cur :: is) s = (runOps is (decoderStep cur s)).map fun r =>
      (r.1, (detentEvent s.cfg.stepsPerDetent (stepSum cur s)).toList ++ r.2) := by
  have heffect : effect (stepOp cur) s = decoderStep cur s := by
    rw [stepOp, effect_step_initialized hinit, pinState_bits]
  rw [runOps_cons_of_legal hlegal, heffect, firedEvent_q (i := stepOp cur) rfl, shownEvent_decoderStep]

/-! #### The unchanged sample -/

/-- STEP with the unchanged sample only drives the Q outputs to 0. -/
theorem runOps_cons_unchangedSample {s : State} (hlegal : Legal s) (hinit : s.initialized = true)
    (hbound : AccBound s) (is : List Instr) :
    runOps (stepOp s.prev :: is) s = runOps is (driveQ none false s) := by
  have hdelta : transitionDelta s.prev s.prev = 0 := transitionDelta_self s.prev
  have hstep : decoderStep s.prev s = driveQ none false s := decoderStep_of_delta_zero hbound hdelta
  rw [runOps_cons_stepOp hlegal hinit, hstep, stepSum_of_delta_zero hdelta, detentEvent_acc_of_accBound hbound]
  simp

theorem runOps_unchangedSample (n : Nat) {s : State} (hlegal : Legal s) (hinit : s.initialized = true)
    (hbound : AccBound s) :
    runOps (List.replicate (n + 1) (stepOp s.prev)) s = some (driveQ none false s, []) := by
  induction n generalizing s with
  | zero => exact runOps_cons_unchangedSample hlegal hinit hbound []
  | succ n ih =>
    rw [List.replicate_succ, runOps_cons_unchangedSample hlegal hinit hbound]
    exact ih (s := driveQ none false s) hlegal hinit hbound

/-- Settles O18: the run ends where its first STEP does, with the Q outputs at 0. -/
theorem unchangedSampleIsNoMotion : Obligations.UnchangedSampleIsNoMotion := by
  intro n s hlegal hinit hbound
  exact runOps_unchangedSample n hlegal hinit hbound

/-! #### The Gray cycle in one direction

A run is followed by the number of quarter-steps since the last event, a natural number below STEPS_PER_DETENT; the
accumulator is that number with the sign of the direction. -/

/-- The next state of the Gray cycle in a direction. -/
def turn (forward : Bool) : PinState → PinState := if forward then grayNext else grayBack

/-- The event that motion in a direction fires: Clockwise forward, swapped under INVERT_DIRECTION (R64, R73). -/
def turnEvent (forward invert : Bool) : DetentEvent :=
  if forward = invert then .counterClockwise else .clockwise

/-- The accumulator after `k` quarter-steps towards an event. -/
def countTowards (e : DetentEvent) (k : Nat) : Int :=
  match e with
  | .clockwise => k
  | .counterClockwise => -k

theorem countTowards_turnEvent (forward invert : Bool) (k : Nat) :
    countTowards (turnEvent forward invert) k = if forward = invert then -(k : Int) else (k : Int) := by
  unfold turnEvent
  split <;> rfl

@[simp] theorem countTowards_zero (e : DetentEvent) : countTowards e 0 = 0 := by
  cases e <;> rfl

theorem countTowards_succ (e : DetentEvent) (k : Nat) :
    countTowards e (k + 1) = countTowards e k + countTowards e 1 := by
  cases e <;> simp only [countTowards] <;> omega

/-- One state along the Gray cycle counts one towards the direction's event (R31 item 7). -/
theorem direct_transitionDelta_turn (forward invert : Bool) (p : PinState) :
    direct invert (transitionDelta p (turn forward p)) = countTowards (turnEvent forward invert) 1 := by
  revert forward invert p; decide

theorem stepSum_turn {forward : Bool} {s : State} {k : Nat}
    (hacc : s.acc = countTowards (turnEvent forward s.cfg.invertDirection) k) :
    stepSum (turn forward s.prev) s = countTowards (turnEvent forward s.cfg.invertDirection) (k + 1) := by
  rw [stepSum, direct_transitionDelta_turn, hacc, ← countTowards_succ]

theorem detentEvent_countTowards_reached {n : Nat} (hn : 1 ≤ n) (e : DetentEvent) :
    detentEvent n (countTowards e n) = some e := by
  cases e with
  | clockwise => exact detentEvent_clockwise le_rfl
  | counterClockwise => exact detentEvent_counterClockwise hn le_rfl

theorem detentEvent_countTowards_below {n k : Nat} (hk : k < n) (e : DetentEvent) :
    detentEvent n (countTowards e k) = none := by
  apply detentEvent_none <;> cases e <;> simp only [countTowards] <;> omega

/-- One quarter-step more: it is counted, or it reaches the threshold, fires and leaves 0. -/
theorem decoderStep_turn {forward : Bool} {s : State} {r : Nat} {e : DetentEvent} (hlegal : Legal s)
    (hdir : turnEvent forward s.cfg.invertDirection = e) (hacc : s.acc = countTowards e r)
    (hr : r < s.cfg.stepsPerDetent) :
    (r + 1 < s.cfg.stepsPerDetent ∧
      detentEvent s.cfg.stepsPerDetent (stepSum (turn forward s.prev) s) = none ∧
      (decoderStep (turn forward s.prev) s).acc = countTowards e (r + 1)) ∨
    (r + 1 = s.cfg.stepsPerDetent ∧
      detentEvent s.cfg.stepsPerDetent (stepSum (turn forward s.prev) s) = some e ∧
      (decoderStep (turn forward s.prev) s).acc = countTowards e 0) := by
  have hsum : stepSum (turn forward s.prev) s = countTowards e (r + 1) := by
    subst hdir
    exact stepSum_turn hacc
  rw [decoderStep_acc, hsum]
  rcases Nat.lt_or_eq_of_le (Nat.succ_le_of_lt hr) with hbelow | hreached
  · have hnone := detentEvent_countTowards_below hbelow e
    exact .inl ⟨hbelow, hnone, accAfter_of_none hnone⟩
  · have hfires : detentEvent s.cfg.stepsPerDetent (countTowards e (r + 1)) = some e := by
      rw [← Nat.succ_eq_add_one, hreached]
      exact detentEvent_countTowards_reached (legal_stepsPerDetent hlegal) e
    exact .inr ⟨hreached, hfires, by rw [accAfter_of_some hfires, countTowards_zero]⟩

/-- From `r` quarter-steps since the last event, `n` more in the same direction fire `(r + n) / S` events and leave
`(r + n) % S`. -/
theorem runOps_turns (forward : Bool) (n : Nat) {s : State} {r : Nat} {e : DetentEvent} (hlegal : Legal s)
    (hinit : s.initialized = true) (hdir : turnEvent forward s.cfg.invertDirection = e)
    (hacc : s.acc = countTowards e r) (hr : r < s.cfg.stepsPerDetent) :
    ∃ t, runOps (stepsOps (walk (turn forward) n s.prev)) s =
        some (t, List.replicate ((r + n) / s.cfg.stepsPerDetent) e) ∧
      t.acc = countTowards e ((r + n) % s.cfg.stepsPerDetent) := by
  induction n generalizing s r with
  | zero =>
    rw [Nat.add_zero, Nat.div_eq_of_lt hr, Nat.mod_eq_of_lt hr]
    exact ⟨s, rfl, hacc⟩
  | succ n ih =>
    have hrun := runOps_cons_stepOp hlegal hinit (turn forward s.prev)
      (stepsOps (walk (turn forward) n (turn forward s.prev)))
    have hlegal' := legal_decoderStep hlegal (turn forward s.prev)
    rcases decoderStep_turn hlegal hdir hacc hr with ⟨hbelow, hevent, hacc'⟩ | ⟨hreached, hevent, hacc'⟩
    · obtain ⟨t, ht, hleft⟩ := ih hlegal' hinit hdir hacc' hbelow
      rw [decoderStep_prev] at ht
      have hmore : r + (n + 1) = r + 1 + n := by omega
      rw [hmore]
      refine ⟨t, hrun.trans ?_, hleft⟩
      simp [ht, hevent]
    · obtain ⟨t, ht, hleft⟩ := ih hlegal' hinit hdir hacc' (legal_stepsPerDetent hlegal)
      rw [decoderStep_prev] at ht
      rw [Nat.zero_add] at ht hleft
      have hmore : r + (n + 1) = n + s.cfg.stepsPerDetent := by omega
      rw [hmore, Nat.add_div_right n (legal_stepsPerDetent hlegal), Nat.add_mod_right]
      refine ⟨t, hrun.trans ?_, hleft⟩
      simp [ht, hevent, List.replicate_succ]

/-- Settles O21: from `acc = 0` no quarter-step has been counted since the last event. -/
theorem quarterStepRunFiresEachDetent : Obligations.QuarterStepRunFiresEachDetent := by
  intro forward n s hlegal hinit hzero
  obtain ⟨t, hrun, hleft⟩ := runOps_turns forward n (r := 0) hlegal hinit rfl (by simpa using hzero)
    (legal_stepsPerDetent hlegal)
  rw [Nat.zero_add] at hrun hleft
  rw [countTowards_turnEvent] at hleft
  exact ⟨t, hrun, hleft⟩

/-! #### The mirror image -/

theorem legal_mirror {s : State} : Legal (mirror s) ↔ Legal s := Iff.rfl

theorem stepSum_mirror (cur : PinState) (s : State) : stepSum cur (mirror s) = -stepSum cur s := by
  simp only [stepSum, mirror, direct_not]
  omega

theorem mirror_driveQ (e : Option DetentEvent) (qErr : Bool) (s : State) :
    driveQ (e.map otherEvent) qErr (mirror s) = mirror (driveQ e qErr s) := by
  cases e with
  | none => rfl
  | some d => cases d <;> rfl

theorem decoderStep_mirror {s : State} (hlegal : Legal s) (cur : PinState) :
    decoderStep cur (mirror s) = mirror (decoderStep cur s) := by
  have hmin := legal_stepsPerDetent hlegal
  have hsteps : (mirror s).cfg.stepsPerDetent = s.cfg.stepsPerDetent := rfl
  rw [decoderStep, stepSum_mirror, hsteps, detentEvent_neg hmin, accAfter_neg hmin]
  exact mirror_driveQ _ false (writeDecoder cur _ s)

/-- Each operation commutes with the mirror image: only the sum of STEP reads what it changes (R64). -/
theorem effect_mirror {s : State} (hlegal : Legal s) (i : Instr) : effect i (mirror s) = mirror (effect i s) := by
  cases i with
  | qidle => rfl
  | step a b =>
    cases hi : s.initialized with
    | true =>
      rw [effect_step_initialized hi, effect_step_initialized (s := mirror s) hi, decoderStep_mirror hlegal]
    | false =>
      rw [effect_step_uninitialized hi, effect_step_uninitialized (s := mirror s) hi]
      rfl
  | init a b => rfl
  | pidle => rfl
  | press t =>
    by_cases haccept : pressAccepted (timestamp t s) s = true
    · rw [effect_press_accepted haccept, effect_press_accepted (s := mirror s) haccept]
      rfl
    · rw [effect_press_rejected haccept, effect_press_rejected (s := mirror s) haccept]
      rfl

theorem firedEvent_mirror (i : Instr) (s : State) :
    firedEvent i (mirror s).out = (firedEvent i s.out).map otherEvent := by
  cases hport : portOf i with
  | q => rw [firedEvent_q hport, firedEvent_q hport, shownEvent_mirror]
  | p => rw [firedEvent_p hport, firedEvent_p hport]; rfl

/-- Settles O24, by induction on the operations: a run is refused with its mirror image, or each operation leaves the
mirror of its state and fires the other event. -/
theorem inversionMirrorsRuns : Obligations.InversionMirrorsRuns := by
  intro ops
  induction ops with
  | nil => intro s; rfl
  | cons i is ih =>
    intro s
    by_cases hlegal : Legal s
    · rw [runOps_cons_of_legal (s := mirror s) hlegal, effect_mirror hlegal, firedEvent_mirror, ih,
        runOps_cons_of_legal hlegal]
      simp [Function.comp_def, Option.toList_map]
    · rw [runOps_cons_of_refused (s := mirror s) hlegal, runOps_cons_of_refused hlegal]
      rfl

end Sys2Proof.Machine
end

section
/-! The press debouncer (41_press.md): what a PRESS leaves when its edge is accepted and when it is discarded, the
difference of two timestamps, and what has no part in it. -/
namespace Sys2Proof.Machine

/-! #### The modular difference of two timestamps (R82)

Two true times less than a turn of the clock apart have their true difference. The cases of two timestamps are cases of
it: a timestamp below `last` is one of the next turn of the clock. -/

theorem subModulo_lt (w a b : Nat) : subModulo w a b < 2 ^ w := BitVec.isLt _

theorem subModulo_of_trueTimes {w trueNow trueLast : Nat} (hle : trueLast ≤ trueNow)
    (hgap : trueNow - trueLast < 2 ^ w) :
    subModulo w (toTimeWidth w trueNow) (toTimeWidth w trueLast) = trueNow - trueLast := by
  rw [subModulo_toTimeWidth hle, Nat.mod_eq_of_lt hgap]

section
variable {w t last : Nat} (ht : t < 2 ^ w) (hlast : last < 2 ^ w)
include ht hlast

theorem subModulo_of_le (hle : last ≤ t) : subModulo w t last = t - last := by
  have hdiff := subModulo_of_trueTimes hle (Nat.sub_lt_of_lt ht)
  rwa [toTimeWidth_of_lt ht, toTimeWidth_of_lt hlast] at hdiff

theorem subModulo_of_wrap (hwrap : t < last) : subModulo w t last = 2 ^ w - (last - t) := by
  have hturn : toTimeWidth w (2 ^ w + t) = t := by
    rw [toTimeWidth, Nat.add_mod_left, Nat.mod_eq_of_lt ht]
  have hdiff := subModulo_of_trueTimes (w := w) (trueNow := 2 ^ w + t) (trueLast := last) (by omega) (by omega)
  rw [hturn, toTimeWidth_of_lt hlast] at hdiff
  omega

theorem subModulo_pos_iff : 0 < subModulo w t last ↔ t ≠ last := by
  rcases Nat.lt_or_ge t last with hwrap | hle
  · rw [subModulo_of_wrap ht hlast hwrap]
    omega
  · rw [subModulo_of_le ht hlast hle]
    omega

end

/-! #### PIDLE and the first edge -/

/-- Settles O26: PIDLE only drives `press_ev`. -/
theorem pidleChangesNothing : Obligations.PidleChangesNothing := by
  intro s hlegal
  exact exec_of_legal hlegal .pidle

/-- Settles O27: the first edge is accepted without reading `last`. -/
theorem firstPressAccepted : Obligations.FirstPressAccepted := by
  intro t s hlegal hnone ht
  rw [exec_of_legal hlegal, effect_press_accepted (pressAccepted_first hnone _), timestamp_of_lt ht]
  rfl

/-! #### Later edges -/

/-- `press_ev` shows the decision (R78). -/
theorem effect_press_pressEv (t : Nat) (s : State) :
    (effect (.press t) s).out.pressEv = pressAccepted (timestamp t s) s := by
  cases haccept : pressAccepted (timestamp t s) s with
  | true => rw [effect_press_accepted haccept, driveP_out_pressEv]
  | false => rw [effect_press_rejected (by simp [haccept]), driveP_out_pressEv]

theorem pressEv_later_iff {t : Nat} {s : State} (hvalid : s.pressValid = true) (ht : t < 2 ^ s.widths.timeW) :
    (effect (.press t) s).out.pressEv = true ↔ s.cfg.pressDebounceMs < subModulo s.widths.timeW t s.last := by
  rw [effect_press_pressEv, timestamp_of_lt ht, pressAccepted_later hvalid]

/-- The decision of a later edge, the difference taken over the integers (R80). -/
theorem pressAccepted_later_int {s : State} (hvalid : s.pressValid = true) (t : Nat) :
    pressAccepted t s = true ↔
      (s.cfg.pressDebounceMs : Int) < ((t : Int) - (s.last : Int)) % 2 ^ s.widths.timeW := by
  rw [pressAccepted_later hvalid, ← subModulo_eq_emod, Nat.cast_lt]

/-- A later edge finds `pressValid` set, so of the two writes only that of `last` shows. -/
theorem writeLast_of_pressValid {s : State} (hvalid : s.pressValid = true) (t : Nat) :
    writeLast t s = { s with last := t } := by
  rw [writeLast, ← hvalid]

/-- Settles O28: an accepted edge writes `last` and drives `press_ev`, a rejected one drives it to 0. -/
theorem pressFiltersByInterval : Obligations.PressFiltersByInterval := by
  intro t s hlegal hvalid ht
  rw [exec_of_legal hlegal]
  split_ifs with hfar
  · have haccept : pressAccepted t s = true := (pressAccepted_later_int hvalid t).mpr hfar
    rw [effect_press_accepted (by rwa [timestamp_of_lt ht]), timestamp_of_lt ht, writeLast_of_pressValid hvalid]
    rfl
  · have hreject : ¬pressAccepted t s = true := mt (pressAccepted_later_int hvalid t).mp hfar
    rw [effect_press_rejected (by rwa [timestamp_of_lt ht])]
    rfl

/-- Settles O29: each clause is the filter on the difference of its case; on equal timestamps that is 0. -/
theorem timestampDifferenceIsModular : Obligations.TimestampDifferenceIsModular := by
  intro t s u hvalid ht hlast hexec
  obtain ⟨-, rfl⟩ := exec_next_iff.mp hexec
  have hfilter := pressEv_later_iff hvalid ht
  refine ⟨?later, ?wrapped, ?equal, ?trueTimes⟩
  case later =>
    intro hle
    rw [hfilter, subModulo_of_le ht hlast hle]
  case wrapped =>
    intro hwrap
    rw [hfilter, subModulo_of_wrap ht hlast hwrap]
  case equal =>
    intro heq
    rw [← Bool.not_eq_true, hfilter, subModulo_of_le ht hlast heq.ge]
    omega
  case trueTimes =>
    intro trueNow trueLast hnow hlast' hle hgap
    have hdiff : subModulo s.widths.timeW t s.last = trueNow - trueLast := by
      rw [hnow, hlast']
      exact subModulo_of_trueTimes hle hgap
    rw [hfilter, hdiff]

/-- Settles O30: the difference is 0 for equal timestamps only, and always below `2^TIME_W`. -/
theorem extremeDebounceIntervals : Obligations.ExtremeDebounceIntervals := by
  intro t s hlegal hvalid ht hlast
  have hfilter := pressEv_later_iff hvalid ht
  refine ⟨_, exec_of_legal hlegal _, ?smallest, ?largest⟩
  case smallest =>
    intro hzero
    rw [hfilter, hzero, subModulo_pos_iff ht hlast]
  case largest =>
    intro hmax
    have hbelow := subModulo_lt s.widths.timeW t s.last
    rw [← Bool.not_eq_true, hfilter, hmax]
    omega

/-! #### The decoder has no part in it (R84) -/

/-- The block with other values in the decoder's registers and in the flags of the Q port. -/
def replaceDecoder (prev : PinState) (acc : Int) (initialized fault : Bool) (s : State) : State :=
  { s with prev := prev, acc := acc, initialized := initialized, fault := fault }

/-- The decision of a PRESS reads nothing of the decoder, and both of its results keep what is there. -/
theorem effect_press_replaceDecoder (t : Nat) (s : State) (prev : PinState) (acc : Int) (initialized fault : Bool) :
    effect (.press t) (replaceDecoder prev acc initialized fault s) =
      replaceDecoder prev acc initialized fault (effect (.press t) s) := by
  obtain ⟨hdecision, -⟩ := pressAccepted_congr (s := s) (u := replaceDecoder prev acc initialized fault s)
    rfl (fun _ => rfl) rfl rfl (timestamp t s)
  by_cases haccept : pressAccepted (timestamp t s) s = true
  · rw [effect_press_accepted haccept, effect_press_accepted (hdecision.trans haccept)]
    rfl
  · rw [effect_press_rejected haccept, effect_press_rejected (hdecision ▸ haccept)]
    rfl

/-- Settles O31: PRESS completes with the frame of the P port, and commutes with a change of the decoder. -/
theorem pressNeedsNoInit : Obligations.PressNeedsNoInit := by
  intro t s prev acc initialized fault hlegal
  obtain ⟨-, -, -, hfault, -, -, herr⟩ := effect_frame_p (i := .press t) rfl s
  refine ⟨_, exec_of_legal hlegal _, herr, hfault, ?_⟩
  have hlegal' : Legal (replaceDecoder prev acc initialized fault s) := hlegal
  exact (exec_of_legal hlegal' _).trans (congrArg _ (effect_press_replaceDecoder t s prev acc initialized fault))

end Sys2Proof.Machine
end

section
/-! The event dispatch of the environment (42_event_dispatch.md): the numbers of the direction keys, the handler lists
under Subscribe, and the handlers that the outputs of a cycle run. -/
namespace Sys2Proof.Machine

/-! #### The numbers of the keys (R89) -/

/-- The pins show an event by `ev_valid`, and its direction by `ev_dir` (R55). -/
theorem shownEvent_eq_some_iff {o : Outputs} {e : DetentEvent} :
    shownEvent o = some e ↔ o.evValid = true ∧ o.evDir = decide (e = .counterClockwise) := by
  cases hvalid : o.evValid with
  | false => simp [shownEvent, hvalid]
  | true => cases hdir : o.evDir <;> cases e <;> simp [shownEvent, hvalid, hdir]

theorem keyNumber_keyOf (e : DetentEvent) : keyNumber (keyOf e) = (decide (e = .counterClockwise)).toNat := by
  cases e <;> rfl

/-- Settles O46: both numbers are the test for CounterClockwise. -/
theorem directionKeyEqualsPin : Obligations.DirectionKeyEqualsPin := by
  refine ⟨?_, rfl, rfl, rfl⟩
  intro o e hshown
  obtain ⟨hvalid, hdir⟩ := shownEvent_eq_some_iff.mp hshown
  exact ⟨hvalid, hdir ▸ keyNumber_keyOf e⟩

/-! #### Subscribe (R91) -/

@[simp] theorem handlersFor_addHandler_same (k : EventKey) (x : Handler) (h : HandlerLists) :
    handlersFor k (addHandler k x h) = handlersFor k h ++ [x] := by
  cases k <;> rfl

theorem handlersFor_addHandler_of_ne {k k' : EventKey} (hne : k' ≠ k) (x : Handler) (h : HandlerLists) :
    handlersFor k' (addHandler k x h) = handlersFor k' h := by
  revert hne
  cases k <;> cases k' <;> simp [handlersFor, addHandler]

theorem step_of_subscribe {s : State} {k : EventKey} {x : Handler} {rest : List Input}
    (hs : s.inputs = .subscribe k x :: rest) : step s = .next (subscribe k x (setInputs rest s)) := by
  rw [step, advance, hs]

/-- Settles O44: the step is the call itself, which writes only the list of its key. -/
theorem subscribeAppends : Obligations.SubscribeAppends := by
  intro s k x rest hs
  exact ⟨_, step_of_subscribe hs, handlersFor_addHandler_same k x s.handlers,
    fun _ hne => handlersFor_addHandler_of_ne hne x s.handlers, rfl⟩

/-! #### The handlers that the outputs run (R92, R94) -/

@[simp] theorem publishDetent_out (s : State) : (publishDetent s).out = s.out := by
  rw [publishDetent_eq]

@[simp] theorem publishDetent_handlers (s : State) : (publishDetent s).handlers = s.handlers := by
  rw [publishDetent_eq]

@[simp] theorem publishPress_out (s : State) : (publishPress s).out = s.out := by
  rw [publishPress_eq]

@[simp] theorem publishPress_handlers (s : State) : (publishPress s).handlers = s.handlers := by
  rw [publishPress_eq]

/-- The handlers that a detent event on the pins runs, each with its key (R94). -/
def detentRuns (o : Outputs) (h : HandlerLists) : List (EventKey × Handler) :=
  if o.evValid then
    if o.evDir then h.counterClockwise.map fun x => (EventKey.counterClockwise, x)
    else h.clockwise.map fun x => (EventKey.clockwise, x)
  else []

/-- The handlers that a press event on the pins runs, each with its key (R94). -/
def pressRuns (o : Outputs) (h : HandlerLists) : List (EventKey × Handler) :=
  if o.pressEv then h.pressed.map fun x => (EventKey.pressed, x) else []

theorem publishDetent_invoked (s : State) :
    (publishDetent s).invoked = s.invoked ++ detentRuns s.out s.handlers := by
  cases hvalid : s.out.evValid with
  | false => simp [publishDetent, shownEvent, detentRuns, hvalid]
  | true =>
    cases hdir : s.out.evDir <;>
      simp [publishDetent, shownEvent, detentRuns, hvalid, hdir, keyOf, handlersFor]

theorem publishPress_invoked (s : State) :
    (publishPress s).invoked = s.invoked ++ pressRuns s.out s.handlers := by
  cases hpress : s.out.pressEv <;> simp [publishPress, pressRuns, hpress, handlersFor]

/-- The two lists of a cycle stand in the order the environment chose (R95). -/
theorem publishOutputs_invoked (pressFirst : Bool) (s : State) :
    (publishOutputs pressFirst s).invoked = s.invoked ++
      (if pressFirst then pressRuns s.out s.handlers ++ detentRuns s.out s.handlers
       else detentRuns s.out s.handlers ++ pressRuns s.out s.handlers) := by
  cases pressFirst <;> simp [publishOutputs, publishDetent_invoked, publishPress_invoked]

/-- Settles O45: publishing writes only the record of the handlers run, which grows by the two lists. -/
theorem eventsArePublished : Obligations.EventsArePublished := by
  intro pressFirst s
  rw [publishOutputs_eq, publishOutputs_invoked]
  rfl

end Sys2Proof.Machine
end

section
/-! Exceptions (60_exceptions.md): the one result of a Q operation, recovery from NotInitialized, the cycles of an
initialized decoder, and the reset cycle. -/
namespace Sys2Proof.Machine

/-! #### The one result of a Q operation (R109) -/

/-- A Q operation raises NotInitialized, which only a STEP before INIT does (R61), or drives the Q port's pins with an
event or none and without an error. -/
theorem effect_q_cases {i : Instr} (hport : portOf i = .q) (s : State) :
    ((s.initialized = false ∧ ∃ a b, i = .step a b) ∧ effect i s = raiseNotInitialized s) ∨
    (¬(s.initialized = false ∧ ∃ a b, i = .step a b) ∧ ∃ e u, effect i s = driveQ e false u) := by
  cases i with
  | qidle => exact .inr ⟨by simp, _, _, rfl⟩
  | step a b =>
    cases hi : s.initialized with
    | true => exact .inr ⟨by simp, _, _, effect_step_initialized hi a b⟩
    | false => exact .inl ⟨by simp, effect_step_uninitialized hi a b⟩
  | init a b => exact .inr ⟨by simp, _, _, rfl⟩
  | pidle => cases hport
  | press t => cases hport

@[simp] theorem raiseNotInitialized_evValid (s : State) : (raiseNotInitialized s).out.evValid = false := rfl
@[simp] theorem raiseNotInitialized_evDir (s : State) : (raiseNotInitialized s).out.evDir = false := rfl
@[simp] theorem raiseNotInitialized_qErr (s : State) : (raiseNotInitialized s).out.qErr = true := rfl

/-- `q_err` is 1 exactly for a STEP before INIT (R61, R103). -/
theorem effect_q_qErr_iff {i : Instr} (hport : portOf i = .q) (s : State) :
    (effect i s).out.qErr = true ↔ s.initialized = false ∧ ∃ a b, i = .step a b := by
  obtain ⟨hraises, heffect⟩ | ⟨hcompletes, e, u, heffect⟩ := effect_q_cases hport s
  · exact iff_of_true (by simp [heffect]) hraises
  · exact iff_of_false (by simp [heffect]) hcompletes

theorem effect_q_event_excludes_error {i : Instr} (hport : portOf i = .q) (s : State) :
    ¬((effect i s).out.evValid = true ∧ (effect i s).out.qErr = true) := by
  obtain ⟨-, heffect⟩ | ⟨-, e, u, heffect⟩ := effect_q_cases hport s
  · simp [heffect]
  · simp [heffect]

theorem effect_q_dir_needs_event {i : Instr} (hport : portOf i = .q) (s : State)
    (hdir : (effect i s).out.evDir = true) : (effect i s).out.evValid = true := by
  obtain ⟨-, heffect⟩ | ⟨-, e, u, heffect⟩ := effect_q_cases hport s
  · simp [heffect] at hdir
  · have hevent : e = some .counterClockwise := by simpa [heffect] using hdir
    simp [heffect, hevent]

theorem causeCode_causeOf (s : State) : causeCode (causeOf s) = if s.out.qErr = true then 1 else 0 := by
  cases hq : s.out.qErr <;> simp [causeOf, causeCode, hq]

/-- Settles O25, by the two results that a Q operation can have. -/
theorem atMostOneQuadratureResult : Obligations.AtMostOneQuadratureResult := by
  intro i s t hport hexec
  obtain ⟨-, rfl⟩ := exec_next_iff.mp hexec
  exact ⟨effect_q_event_excludes_error hport s, effect_q_dir_needs_event hport s, effect_q_qErr_iff hport s,
    causeCode_causeOf _⟩

/-! #### Recovery (R111) -/

/-- A second NotInitialized finds everything it writes already written. -/
theorem raiseNotInitialized_idem (s : State) :
    raiseNotInitialized (raiseNotInitialized s) = raiseNotInitialized s := rfl

theorem exec_step_uninitialized {s : State} (hlegal : Legal s) (hinit : s.initialized = false) (a b : Bool) :
    exec (.step a b) s = .next (raiseNotInitialized s) := by
  rw [exec_of_legal hlegal, effect_step_uninitialized hinit]

/-- Settles O16: raising is idempotent, INIT opens the guard of STEP, and neither of them writes `fault`. -/
theorem faultStaysAfterRecovery : Obligations.FaultStaysAfterRecovery := by
  intro a b c d s hlegal hinit
  have hraised : Legal (raiseNotInitialized s) := hlegal
  have hrecovered : Legal (effect (.init c d) (raiseNotInitialized s)) := legal_effect hraised _
  refine ⟨_, exec_step_uninitialized hlegal hinit a b, rfl, ?_, ?_⟩
  · exact ⟨_, exec_of_legal hraised _, rfl, rfl, rfl, rfl, _, exec_step_initialized hrecovered rfl a b, rfl, rfl⟩
  · rw [exec_step_uninitialized hraised hinit, raiseNotInitialized_idem]

/-! #### The cycles of an initialized decoder (R103, R126) -/

@[simp] theorem publishOutputs_initialized (pressFirst : Bool) (s : State) :
    (publishOutputs pressFirst s).initialized = s.initialized := by
  rw [publishOutputs_eq]

@[simp] theorem publishOutputs_fault (pressFirst : Bool) (s : State) :
    (publishOutputs pressFirst s).fault = s.fault := by
  rw [publishOutputs_eq]

@[simp] theorem publishOutputs_out (pressFirst : Bool) (s : State) :
    (publishOutputs pressFirst s).out = s.out := by
  rw [publishOutputs_eq]

/-- A Q operation of an initialized decoder keeps it initialized, leaves `fault` alone and raises nothing. -/
theorem effect_q_of_initialized {i : Instr} (hport : portOf i = .q) {s : State} (hinit : s.initialized = true) :
    (effect i s).initialized = true ∧ (effect i s).fault = s.fault ∧ (effect i s).out.qErr = false := by
  refine ⟨(effect_initialized_iff i s).mpr (.inl hinit), Bool.eq_iff_iff.mpr ?_, Bool.eq_false_iff.mpr ?_⟩
  · simp [effect_fault_iff, hinit]
  · simp [effect_q_qErr_iff hport, hinit]

/-- The P operation of the cycle and the publishing write none of the three. -/
theorem operatingCycle_of_initialized {c : Cycle} {s t : State} (hinit : s.initialized = true)
    (hcycle : operatingCycle c s = .next t) : t.initialized = true ∧ t.fault = s.fault ∧ t.out.qErr = false := by
  obtain ⟨i, j, hi, hj, -, -, -, -, rfl⟩ := operatingCycle_next hcycle
  obtain ⟨hinitQ, hfaultQ, herrQ⟩ := effect_q_of_initialized (s := beginCycle s) hi hinit
  obtain ⟨-, -, hinitP, hfaultP, -, -, herrP⟩ := effect_frame_p hj (effect i (beginCycle s))
  simp [hinitP, hfaultP, herrP, hinitQ, hfaultQ, herrQ]

/-- Settles O47, by what a step can be: a reset edge clears the flags, a cycle keeps `initialized` and raises nothing,
and a Subscribe call leaves the block as it was. -/
theorem initializedBlockNeverFaults : Obligations.InitializedBlockNeverFaults := by
  intro s t hinit hgood hstep
  obtain ⟨c, rest, hs, hr, rfl⟩ | ⟨c, rest, -, -, hcycle⟩ | ⟨-, hcycle⟩ | ⟨k, x, rest, hs, rfl⟩ := step_cases hstep
  · refine ⟨rfl, fun _ => rfl, fun hnoReset => ?_⟩
    simp [hnoReset c rest hs] at hr
  · obtain ⟨hinit', hfault, herr⟩ := operatingCycle_of_initialized (s := setInputs rest s) hinit hcycle
    exact ⟨hfault.trans hgood, fun _ => herr, fun _ => hinit'⟩
  · obtain ⟨hinit', hfault, herr⟩ := operatingCycle_of_initialized hinit hcycle
    exact ⟨hfault.trans hgood, fun _ => herr, fun _ => hinit'⟩
  · exact ⟨hgood, fun hnoCall => absurd hs (hnoCall k x rest), fun _ => hinit⟩

/-! #### The reset cycle (R107, R122) -/

theorem step_of_reset {s : State} {c : Cycle} {rest : List Input} (hs : s.inputs = .cycle c :: rest)
    (hr : c.rst = true) : step s = .next (resetEdge c.cfg (setInputs rest s)) := by
  simp [step, advance, hs, clockCycle, hr]

/-- Settles O40: the step is the reset edge itself, which reads no word. -/
theorem resetCycleClearsFlagsAndOutputs : Obligations.ResetCycleClearsFlagsAndOutputs := by
  intro s c rest hs hr
  exact ⟨_, step_of_reset hs hr, rfl, rfl, rfl, rfl, rfl, rfl, rfl, rfl, rfl⟩

end Sys2Proof.Machine
end

section
/-! Reset and hazards (70_reset_and_hazards.md): the state after reset, what the decoder counts when samples are missed or
torn, and that no register value the spec leaves unspecified is observable. -/
namespace Sys2Proof.Machine

/-! #### Two states that differ only in unspecified registers (R123)

Every named update keeps the agreement; one that reads an unspecified register does so under the flag that makes the two
states agree on it. -/

section
variable {s t : State} (h : SameButUnspecified s t)
include h

/-! What the two states share. -/

theorem SameButUnspecified.widths_eq : t.widths = s.widths := by rw [h.rest]
theorem SameButUnspecified.cfg_eq : t.cfg = s.cfg := by rw [h.rest]
theorem SameButUnspecified.initialized_eq : t.initialized = s.initialized := by rw [h.rest]
theorem SameButUnspecified.pressValid_eq : t.pressValid = s.pressValid := by rw [h.rest]
theorem SameButUnspecified.out_eq : t.out = s.out := by rw [h.rest]
theorem SameButUnspecified.handlers_eq : t.handlers = s.handlers := by rw [h.rest]
theorem SameButUnspecified.invoked_eq : t.invoked = s.invoked := by rw [h.rest]
theorem SameButUnspecified.inputs_eq : t.inputs = s.inputs := by rw [h.rest]

theorem SameButUnspecified.legal_iff : Legal t ↔ Legal s := by
  rw [Legal, Legal, h.widths_eq, h.cfg_eq]

/-! The named updates. -/

/-- Writing the decoder's registers makes the two states agree on them. -/
theorem sameButUnspecified_writeDecoder (p : PinState) (x : Int) :
    SameButUnspecified (writeDecoder p x s) (writeDecoder p x t) where
  rest := congrArg (writeDecoder p x) h.rest
  decoder _ := ⟨rfl, rfl⟩
  debouncer := h.debouncer

/-- Setting `initialized` specifies the decoder's registers, so the two states must agree on them already (R18). -/
theorem sameButUnspecified_setInitialized (hdecoder : t.prev = s.prev ∧ t.acc = s.acc) :
    SameButUnspecified (setInitialized s) (setInitialized t) where
  rest := congrArg setInitialized h.rest
  decoder _ := hdecoder
  debouncer := h.debouncer

/-- Recording a press makes the two states agree on `last` (R17, R19). -/
theorem sameButUnspecified_writeLast (now : Nat) : SameButUnspecified (writeLast now s) (writeLast now t) where
  rest := congrArg (writeLast now) h.rest
  decoder := h.decoder
  debouncer _ := rfl

theorem sameButUnspecified_setFault : SameButUnspecified (setFault s) (setFault t) :=
  { h with rest := congrArg setFault h.rest }

theorem sameButUnspecified_driveQ (e : Option DetentEvent) (qErr : Bool) :
    SameButUnspecified (driveQ e qErr s) (driveQ e qErr t) :=
  { h with rest := congrArg (driveQ e qErr) h.rest }

theorem sameButUnspecified_driveP (pressEv : Bool) : SameButUnspecified (driveP pressEv s) (driveP pressEv t) :=
  { h with rest := congrArg (driveP pressEv) h.rest }

theorem sameButUnspecified_beginCycle : SameButUnspecified (beginCycle s) (beginCycle t) :=
  { h with rest := congrArg beginCycle h.rest }

theorem sameButUnspecified_setInputs (rest : List Input) :
    SameButUnspecified (setInputs rest s) (setInputs rest t) :=
  { h with rest := congrArg (setInputs rest) h.rest }

theorem sameButUnspecified_subscribe (k : EventKey) (x : Handler) :
    SameButUnspecified (subscribe k x s) (subscribe k x t) :=
  { h with rest := congrArg (subscribe k x) h.rest }

/-- A reset edge reads none of the three registers. -/
theorem SameButUnspecified.resetEdge_eq (pins : Config) : resetEdge pins t = resetEdge pins s := by
  rw [h.rest]
  rfl

theorem sameButUnspecified_resetEdge (pins : Config) :
    SameButUnspecified (resetEdge pins s) (resetEdge pins t) where
  rest := by rw [h.resetEdge_eq]
  decoder := by simp
  debouncer := by simp

/-- The handlers that run are chosen by the pins and the lists, which the two states share. -/
theorem sameButUnspecified_publishOutputs (pressFirst : Bool) :
    SameButUnspecified (publishOutputs pressFirst s) (publishOutputs pressFirst t) := by
  have hruns : (publishOutputs pressFirst t).invoked = (publishOutputs pressFirst s).invoked := by
    simp only [publishOutputs_invoked, h.invoked_eq, h.out_eq, h.handlers_eq]
  rw [publishOutputs_eq pressFirst s, publishOutputs_eq pressFirst t, hruns]
  exact { h with rest := congrArg (fun u => { u with invoked := (publishOutputs pressFirst s).invoked }) h.rest }

/-! The operations. -/

theorem SameButUnspecified.stepSum_eq (hinit : s.initialized = true) (cur : PinState) :
    stepSum cur t = stepSum cur s := by
  obtain ⟨hprev, hacc⟩ := h.decoder hinit
  rw [stepSum, stepSum, h.cfg_eq, hprev, hacc]

theorem sameButUnspecified_decoderStep (hinit : s.initialized = true) (cur : PinState) :
    SameButUnspecified (decoderStep cur s) (decoderStep cur t) := by
  rw [decoderStep, decoderStep, h.stepSum_eq hinit, h.cfg_eq]
  exact sameButUnspecified_driveQ (sameButUnspecified_writeDecoder h _ _) _ _

theorem SameButUnspecified.press_eq (now : Nat) :
    pressAccepted (timestamp now t) t = pressAccepted (timestamp now s) s ∧ timestamp now t = timestamp now s := by
  have hcongr := pressAccepted_congr h.pressValid_eq h.debouncer h.cfg_eq h.widths_eq
  obtain ⟨-, htime⟩ := hcongr now
  rw [htime]
  exact ⟨(hcongr _).1, rfl⟩

/-- STEP reads the decoder's registers after INIT only, and PRESS reads `last` after the first press only. -/
theorem sameButUnspecified_effect (i : Instr) : SameButUnspecified (effect i s) (effect i t) := by
  cases i with
  | qidle => exact sameButUnspecified_driveQ h _ _
  | step a b =>
    cases hinit : s.initialized with
    | true =>
      rw [effect_step_initialized hinit, effect_step_initialized (h.initialized_eq.trans hinit)]
      exact sameButUnspecified_decoderStep h hinit _
    | false =>
      rw [effect_step_uninitialized hinit, effect_step_uninitialized (h.initialized_eq.trans hinit)]
      exact sameButUnspecified_driveQ (sameButUnspecified_setFault h) _ _
  | init a b =>
    have hwritten := sameButUnspecified_writeDecoder h (pinState a b) 0
    exact sameButUnspecified_driveQ (sameButUnspecified_setInitialized hwritten ⟨rfl, rfl⟩) _ _
  | pidle => exact sameButUnspecified_driveP h _
  | press now =>
    obtain ⟨haccepted, htime⟩ := h.press_eq now
    by_cases haccept : pressAccepted (timestamp now s) s = true
    · rw [effect_press_accepted haccept, effect_press_accepted (haccepted.trans haccept), htime]
      exact sameButUnspecified_driveP (sameButUnspecified_writeLast h _) _
    · rw [effect_press_rejected haccept, effect_press_rejected (haccepted ▸ haccept)]
      exact sameButUnspecified_driveP h _

end

/-! #### Outcomes that no observer can tell apart (R123) -/

theorem sameResult_andThen {r r' : Result} {f : State → Result} (h : SameResult r r')
    (hf : ∀ s t, SameButUnspecified s t → SameResult (f s) (f t)) :
    SameResult (andThen r f) (andThen r' f) := by
  cases r <;> cases r'
  case next.next s t => exact hf s t h
  case refused.refused => exact h
  all_goals cases h

section
variable {s t : State} (h : SameButUnspecified s t)
include h

theorem sameResult_exec (i : Instr) : SameResult (exec i s) (exec i t) := by
  by_cases hlegal : Legal s
  · rw [exec_of_legal hlegal, exec_of_legal (h.legal_iff.mpr hlegal)]
    exact sameButUnspecified_effect h i
  · rw [exec_refused hlegal, exec_refused (mt h.legal_iff.mp hlegal)]
    rfl

theorem sameResult_performBoth (i j : Instr) : SameResult (performBoth i j s) (performBoth i j t) :=
  sameResult_andThen (sameResult_exec h i) fun _ _ hq => sameResult_exec hq j

/-- The width of a port is shared, so both states read the same operation or refuse the same number. -/
theorem sameResult_readPort (port : Port) (w : Nat) {f g : Instr → Result} (hf : ∀ i, SameResult (f i) (g i)) :
    SameResult (readPort port w s f) (readPort port w t g) := by
  rw [readPort, readPort, h.widths_eq]
  split
  · exact hf _
  · rfl
  · rfl

theorem sameResult_operatingCycle (c : Cycle) : SameResult (operatingCycle c s) (operatingCycle c t) := by
  by_cases hpins : c.cfg = s.cfg
  · rw [operatingCycle, operatingCycle, if_pos hpins, if_pos (hpins.trans h.cfg_eq.symm)]
    refine sameResult_readPort h _ _ fun i => sameResult_readPort h _ _ fun j => ?_
    exact sameResult_andThen (sameResult_performBoth (sameButUnspecified_beginCycle h) i j)
      fun _ _ hdone => sameButUnspecified_publishOutputs hdone c.pressFirst
  · rw [operatingCycle_refused_of_changed hpins, operatingCycle_refused_of_changed (h.cfg_eq ▸ hpins)]
    rfl

end

/-- Settles O50, by what the environment does next, which the two states share: nothing, a reset cycle, a cycle with
rst = 0, or a Subscribe call. -/
theorem unspecifiedRegistersUnobservable : Obligations.UnspecifiedRegistersUnobservable := by
  intro s t h
  match hs : s.inputs with
  | [] =>
    rw [step_of_nothing hs, step_of_nothing (h.inputs_eq.trans hs), h.cfg_eq]
    exact sameResult_operatingCycle h _
  | .cycle c :: rest =>
    have hrest := sameButUnspecified_setInputs h rest
    cases hr : c.rst with
    | true =>
      rw [step_of_reset hs hr, step_of_reset (h.inputs_eq.trans hs) hr]
      exact sameButUnspecified_resetEdge hrest c.cfg
    | false =>
      rw [step_of_operating hs hr, step_of_operating (h.inputs_eq.trans hs) hr]
      exact sameResult_operatingCycle hrest c
  | .subscribe k x :: rest =>
    rw [step_of_subscribe hs, step_of_subscribe (h.inputs_eq.trans hs)]
    exact sameButUnspecified_subscribe (sameButUnspecified_setInputs h rest) k x

/-! #### Missed and torn samples (R129, R130)

The Gray cycle has four states: three quarter-steps are one in the other direction, and two change both lines. -/

theorem grayNext_thrice (p : PinState) : grayNext (grayNext (grayNext p)) = grayBack p := by
  revert p; decide

theorem grayBack_thrice (p : PinState) : grayBack (grayBack (grayBack p)) = grayNext p := by
  revert p; decide

theorem grayNext_grayBack (p : PinState) : grayNext (grayBack p) = p := by
  revert p; decide

theorem grayNext_twice_changes_both (p : PinState) : p ^^^ grayNext (grayNext p) = 0b11#2 := by
  revert p; decide

theorem transitionDelta_grayNext (p : PinState) : transitionDelta p (grayNext p) = 1 := by
  revert p; decide

/-- A quarter-step backward is one forward, reversed. -/
theorem transitionDelta_grayBack (p : PinState) : transitionDelta p (grayBack p) = -1 := by
  have hforward := transitionDelta_grayNext (grayBack p)
  rw [grayNext_grayBack] at hforward
  rw [transitionDelta_antisymm, hforward]

/-- The torn sequence is two quarter-steps backward. -/
theorem transitionDelta_torn : transitionDelta 0b00#2 0b10#2 + transitionDelta 0b10#2 0b11#2 = -2 := by
  have hfirst : transitionDelta 0b00#2 0b10#2 = -1 := transitionDelta_grayBack 0b00#2
  have hsecond : transitionDelta 0b10#2 0b11#2 = -1 := transitionDelta_grayBack 0b10#2
  omega

/-- Settles O11: one quarter-step from the table, two by the double-bit change, three as one in the other direction. -/
theorem undersampledMotionCounts : Obligations.UndersampledMotionCounts := by
  intro p
  refine ⟨transitionDelta_grayNext p, transitionDelta_grayBack p, ?two, ?threeForward, ?threeBackward, ?four,
    transitionDelta_torn⟩
  case two => exact transitionDelta_doubleBit (grayNext_twice_changes_both p)
  case threeForward => rw [grayNext_thrice, transitionDelta_grayBack]
  case threeBackward => rw [grayBack_thrice, transitionDelta_grayNext]
  case four => rw [grayNext_thrice p, grayNext_grayBack]

/-! #### The state after reset (R122, R123) -/

/-- Settles O41, field by field. -/
theorem resetStateAsSpecified : Obligations.ResetStateAsSpecified :=
  ⟨rfl, rfl, rfl, rfl, rfl, rfl, rfl, rfl, rfl, rfl, rfl, rfl⟩

/-- An uninitialized state that shows no output meets the invariant as soon as its registers fit their widths: every
other clause speaks of a set flag or pin. -/
theorem inv_of_noOutput {s : State} (hinit : s.initialized = false) (hout : s.out = Outputs.none)
    (haccFits : -(2 ^ (s.widths.accW - 1) : Int) ≤ s.acc ∧ s.acc < 2 ^ (s.widths.accW - 1))
    (hlastFits : s.last < 2 ^ s.widths.timeW) : Inv s where
  accBound := by simp [hinit]
  accFits := haccFits
  lastFits := hlastFits
  dirNeedsEvent := by simp [hout, Outputs.none]
  eventExcludesError := by simp [hout, Outputs.none]
  eventNeedsInit := by simp [hout, Outputs.none]
  errorRecorded := by simp [hout, Outputs.none]
  pressRecorded := by simp [hout, Outputs.none]
  faultSticky := by simp [hout, Outputs.none]

/-- Settles O49: the flags and pins are 0, and the chosen `acc` and `last` (log entry 2) fit the default widths. -/
theorem resetMeetsInvariant : Obligations.ResetMeetsInvariant :=
  inv_of_noOutput rfl rfl (by decide) (by decide)

end Sys2Proof.Machine
end
